-- ==== Sys2Proof/Word.lean ====
section
/-! DEFINITION. The word types of the engine: bytes, samples, coefficients, the command word
(00_scope.md R10, R12, R13; 30_encoding.md R100). Arithmetic is on `Int` and `Nat`, as R12 says of the
pseudocode; a store into a typed cell is `BitVec.ofInt` or `BitVec.ofNat` of the cell's width. -/

namespace Sys2Proof

/-- A byte of the bitstream or of an output plane (R10, R80, R85). -/
abbrev Byte := BitVec 8

/-- A band-buffer sample: signed 16-bit (R10, R83). -/
abbrev Sample := BitVec 16

/-- A transform coefficient: signed 32-bit (R10, R50). -/
abbrev Coef := BitVec 32

/-- A command word (30_encoding.md R100). -/
abbrev CommandWord := BitVec 32

/-- `wrap16` of R13, as the 16-bit cell that holds it. -/
abbrev wrap16 (v : Int) : Sample := BitVec.ofInt 16 v

/-- `wrap32` of R13, as the 32-bit cell that holds it. -/
abbrev wrap32 (v : Int) : Coef := BitVec.ofInt 32 v

end Sys2Proof
end

