-- ==== Sys2Proof/Syntax.lean ====
section
/-! DEFINITION. The commands of the engine: one constructor for each row of spec/opcode_table.json, its fields
the fields of the row (30_encoding.md R101, R102, R103, R109). -/

namespace Sys2Proof

/-- A command, as its command word names it. `n` is the bit count N, `t d b` of GETVLC2 are the table slot, the
depth and the index bits, `t t2` of the motion-compensation rows are the interpolation types, `p b` of the PB
rows are the plane and the band. -/
inductive Instr where
  /-- GETBITS, format BR, word 0x04000000: rule R142. -/
  | getbits (n : BitVec 7)
  /-- GETBITSLONG, format BR, word 0x08000000: rule R143. -/
  | getbitslong (n : BitVec 7)
  /-- GETBITS64, format BR, word 0x0C000000: rule R144. -/
  | getbits64 (n : BitVec 7)
  /-- GETSBITS, format BR, word 0x10000000: rule R145. -/
  | getsbits (n : BitVec 7)
  /-- GETSBITSLONG, format BR, word 0x14000000: rule R146. -/
  | getsbitslong (n : BitVec 7)
  /-- SHOWBITS, format BR, word 0x18000000: rule R147. -/
  | showbits (n : BitVec 7)
  /-- SHOWBITSLONG, format BR, word 0x1C000000: rule R148. -/
  | showbitslong (n : BitVec 7)
  /-- SKIPBITS, format BR, word 0x20000000: rule R150. -/
  | skipbits (n : BitVec 7)
  /-- SKIPBITSLONG, format BR, word 0x24000000: rule R151. -/
  | skipbitslong (n : BitVec 7)
  /-- ALIGN, format N, word 0x28000000: rule R149. -/
  | align
  /-- GETVLC2, format VL, word 0x2C000000: rule R160. -/
  | getvlc2 (t : BitVec 6) (d : BitVec 2) (b : BitVec 5)
  /-- BITSCOUNT, format N, word 0x30000000: rule R152. -/
  | bitscount
  /-- BITSLEFT, format N, word 0x34000000: rule R153. -/
  | bitsleft
  /-- HUFFBUILD, format HB, word 0x40000000: rule R171. -/
  | huffbuild (t : BitVec 6)
  /-- INITVLC, format HB, word 0x44000000: rule R175. -/
  | initvlc (t : BitVec 6)
  /-- DECHUFFDESC, format HD, word 0x48000000: rule R178. -/
  | dechuffdesc (t : BitVec 6) (w : BitVec 1) (c : BitVec 1)
  /-- HAAR8, format TX, word 0x60000000: rule R210. -/
  | haar8
  /-- HAARROW8, format TX, word 0x60000001: rule R211. -/
  | haarrow8
  /-- HAARCOL8, format TX, word 0x60000002: rule R212. -/
  | haarcol8
  /-- SLANT8, format TX, word 0x60000003: rule R213. -/
  | slant8
  /-- SLANTROW8, format TX, word 0x60000004: rule R214. -/
  | slantrow8
  /-- SLANTCOL8, format TX, word 0x60000005: rule R215. -/
  | slantcol8
  /-- COPY8, format TX, word 0x60000006: rule R216. -/
  | copy8
  /-- HAAR4, format TX, word 0x60000008: rule R217. -/
  | haar4
  /-- HAARROW4, format TX, word 0x60000009: rule R218. -/
  | haarrow4
  /-- HAARCOL4, format TX, word 0x6000000A: rule R219. -/
  | haarcol4
  /-- SLANT4, format TX, word 0x6000000B: rule R220. -/
  | slant4
  /-- SLANTROW4, format TX, word 0x6000000C: rule R221. -/
  | slantrow4
  /-- SLANTCOL4, format TX, word 0x6000000D: rule R222. -/
  | slantcol4
  /-- DCHAAR8, format TX, word 0x64000000: rule R231. -/
  | dchaar8
  /-- DCHAAR4, format TX, word 0x64000008: rule R232. -/
  | dchaar4
  /-- DCSLANT8, format TX, word 0x64000003: rule R233. -/
  | dcslant8
  /-- DCSLANT4, format TX, word 0x6400000B: rule R234. -/
  | dcslant4
  /-- DCROWSLANT8, format TX, word 0x64000004: rule R235. -/
  | dcrowslant8
  /-- DCROWSLANT4, format TX, word 0x6400000C: rule R235. -/
  | dcrowslant4
  /-- DCCOLSLANT8, format TX, word 0x64000005: rule R236. -/
  | dccolslant8
  /-- DCCOLSLANT4, format TX, word 0x6400000D: rule R236. -/
  | dccolslant4
  /-- DCCOPY8, format TX, word 0x64000006: rule R237. -/
  | dccopy8
  /-- MC8ND, format MC, word 0x80000000: rule R254. -/
  | mc8nd (t : BitVec 2)
  /-- MC8D, format MC, word 0x80000002: rule R255. -/
  | mc8d (t : BitVec 2)
  /-- MC4ND, format MC, word 0x80000001: rule R256. -/
  | mc4nd (t : BitVec 2)
  /-- MC4D, format MC, word 0x80000003: rule R257. -/
  | mc4d (t : BitVec 2)
  /-- MCAVG8ND, format MC, word 0x80000004: rule R259. -/
  | mcavg8nd (t : BitVec 2) (t2 : BitVec 2)
  /-- MCAVG8D, format MC, word 0x80000006: rule R259. -/
  | mcavg8d (t : BitVec 2) (t2 : BitVec 2)
  /-- MCAVG4ND, format MC, word 0x80000005: rule R259. -/
  | mcavg4nd (t : BitVec 2) (t2 : BitVec 2)
  /-- MCAVG4D, format MC, word 0x80000007: rule R259. -/
  | mcavg4d (t : BitVec 2) (t2 : BitVec 2)
  /-- DEQUANT, format N, word 0xA0000000: rule R282. -/
  | dequant
  /-- DECBLK, format PB, word 0xA4000000: rule R285. -/
  | decblk (p : BitVec 2) (b : BitVec 2)
  /-- DCBLK, format PB, word 0xA8000000: rule R286. -/
  | dcblk (p : BitVec 2) (b : BitVec 2)
  /-- DECTILEBLKS, format PB, word 0xAC000000: rule R287. -/
  | dectileblks (p : BitVec 2) (b : BitVec 2)
  /-- EMPTYTILE, format PB, word 0xB0000000: rule R288. -/
  | emptytile (p : BitVec 2) (b : BitVec 2)
  /-- DECMBINFO, format PB, word 0xB4000000: rule R296. -/
  | decmbinfo (p : BitVec 2) (b : BitVec 2)
  /-- DECBAND, format PB, word 0xB8000000: rule R292. -/
  | decband (p : BitVec 2) (b : BitVec 2)
  /-- TILESIZE, format N, word 0xBC000000: rule R289. -/
  | tilesize
  /-- DECFRAME, format N, word 0xC0000000: rule R371. -/
  | decframe
  /-- PICHDR, format N, word 0xC4000000: rule R330. -/
  | pichdr
  /-- INITPLANES, format N, word 0xC8000000: rule R312. -/
  | initplanes
  /-- INITTILES, format N, word 0xCC000000: rule R317. -/
  | inittiles
  /-- SWITCHBUF, format N, word 0xD0000000: rule R360. -/
  | switchbuf
  /-- RECOMPHAAR, format N, word 0xD4000000: rule R381. -/
  | recomphaar
  /-- RECOMP53, format N, word 0xD8000000: rule R382. -/
  | recomp53
  /-- OUTPLANE, format PB, word 0xDC000000: rule R380. -/
  | outplane (p : BitVec 2) (b : BitVec 2)
  /-- BANDHDR, format PB, word 0xE0000000: rule R340. -/
  | bandhdr (p : BitVec 2) (b : BitVec 2)
  /-- GOPHDR, format N, word 0xE4000000: rule R351. -/
  | gophdr
  /-- RESET, format N, word 0xFC000000: rule R440. -/
  | reset
  deriving DecidableEq, Repr

end Sys2Proof
end

