-- ==== Sys2Proof/WellFormed.lean ====
section
/-! DEFINITION. Which commands have legal field values: the reserved field values of 30_encoding.md R103 and R105
to R108 and of 45_frame_engine.md R380. A command that is not well-formed raises ILLEGAL_COMMAND (R104). -/

namespace Sys2Proof

/-- The table slots GETVLC2 may name (30_encoding.md R107). -/
def legalVlcSlot (t : BitVec 6) : Bool :=
  decide (t.toNat ≤ 17) || decide (32 ≤ t.toNat ∧ t.toNat ≤ 43) || decide (t.toNat = 48)

/-- The Huffman-register slots DECHUFFDESC may name (30_encoding.md R107). -/
def legalHuffSlot (t : BitVec 6) : Bool :=
  decide (t.toNat = 16) || decide (t.toNat = 17) || decide (32 ≤ t.toNat ∧ t.toNat ≤ 43)

/-- The plane field of a PB command: 3 is reserved (30_encoding.md R108). -/
def legalPlane (p : BitVec 2) : Bool := decide (p.toNat < 3)

/-- Every field of the command has a legal value. -/
def Instr.wellFormed : Instr → Bool
  | .getbits n | .getsbits n | .showbits n => decide (1 ≤ n.toNat ∧ n.toNat ≤ 25)
  | .getbitslong n | .getsbitslong n | .showbitslong n => decide (n.toNat ≤ 32)
  | .getbits64 n => decide (n.toNat ≤ 64)
  | .getvlc2 t d b =>
    legalVlcSlot t && decide (1 ≤ d.toNat) && decide (1 ≤ b.toNat ∧ b.toNat ≤ 30)
  | .huffbuild t | .initvlc t => decide (t.toNat = 48)
  | .dechuffdesc t _ _ => legalHuffSlot t
  | .decblk p _ | .dcblk p _ | .dectileblks p _ | .emptytile p _ | .decmbinfo p _ | .decband p _
  | .bandhdr p _ => legalPlane p
  | .outplane p b => legalPlane p && decide (b.toNat = 0)
  | .skipbits _ | .skipbitslong _ | .align | .bitscount | .bitsleft
  | .haar8 | .haarrow8 | .haarcol8 | .slant8 | .slantrow8 | .slantcol8 | .copy8
  | .haar4 | .haarrow4 | .haarcol4 | .slant4 | .slantrow4 | .slantcol4
  | .dchaar8 | .dchaar4 | .dcslant8 | .dcslant4 | .dcrowslant8 | .dcrowslant4
  | .dccolslant8 | .dccolslant4 | .dccopy8
  | .mc8nd _ | .mc8d _ | .mc4nd _ | .mc4d _
  | .mcavg8nd _ _ | .mcavg8d _ _ | .mcavg4nd _ _ | .mcavg4d _ _
  | .dequant | .tilesize | .decframe | .pichdr | .initplanes | .inittiles | .switchbuf
  | .recomphaar | .recomp53 | .gophdr | .reset => true

end Sys2Proof
end

