-- ==== Sys2Proof/Decode.lean ====
section
/-! DEFINITION. The decoder and the encoder of command words (30_encoding.md R100 to R109). The decoder tells a
command's row from the opcode and the bits the row fixes (spec/opcode_table.json), and refuses a reserved opcode, a
reserved bit that is not 0 and a reserved sub-encoding by name (R104). A reserved value in a FIELD of a row leaves
the row: it is `Instr.wellFormed` that is false of it, and its meaning raises ILLEGAL_COMMAND (log 33). -/

namespace Sys2Proof

/-- Why a command word names no command (R104). -/
inductive DecodeError where
  /-- The opcode `CW[31:26]` is reserved (R102). -/
  | reservedOpcode
  /-- A bit that the format does not name is not 0 (R101). -/
  | reservedBits
  /-- The size and kind of a transform, or `T2` of a single-reference prediction, is reserved (R103, R108). -/
  | reservedForm
  deriving DecidableEq, Repr

/-- Format N: no operand field. -/
def decodeN (rest : Nat) (i : Instr) : Except DecodeError Instr :=
  if rest = 0 then .ok i else .error .reservedBits

/-- Format BR: `N[6:0]`. -/
def decodeBR (rest : Nat) (mk : BitVec 7 → Instr) : Except DecodeError Instr :=
  if rest < 128 then .ok (mk (BitVec.ofNat 7 rest)) else .error .reservedBits

/-- Format VL: `T[25:20]`, `D[17:16]`, `B[4:0]`. -/
def decodeVL (rest : Nat) (mk : BitVec 6 → BitVec 2 → BitVec 5 → Instr) : Except DecodeError Instr :=
  if rest / 2 ^ 18 % 4 = 0 ∧ rest / 2 ^ 5 % 2 ^ 11 = 0 then
    .ok (mk (BitVec.ofNat 6 (rest / 2 ^ 20)) (BitVec.ofNat 2 (rest / 2 ^ 16)) (BitVec.ofNat 5 rest))
  else .error .reservedBits

/-- Format HB: `T[25:20]`. -/
def decodeHB (rest : Nat) (mk : BitVec 6 → Instr) : Except DecodeError Instr :=
  if rest % 2 ^ 20 = 0 then .ok (mk (BitVec.ofNat 6 (rest / 2 ^ 20))) else .error .reservedBits

/-- Format HD: `T[25:20]`, `W[1]`, `C[0]`. -/
def decodeHD (rest : Nat) (mk : BitVec 6 → BitVec 1 → BitVec 1 → Instr) : Except DecodeError Instr :=
  if rest / 4 % 2 ^ 18 = 0 then
    .ok (mk (BitVec.ofNat 6 (rest / 2 ^ 20)) (BitVec.ofNat 1 (rest / 2)) (BitVec.ofNat 1 rest))
  else .error .reservedBits

/-- Format PB: `P[25:24]`, `B[23:22]`. -/
def decodePB (rest : Nat) (mk : BitVec 2 → BitVec 2 → Instr) : Except DecodeError Instr :=
  if rest % 2 ^ 22 = 0 then
    .ok (mk (BitVec.ofNat 2 (rest / 2 ^ 24)) (BitVec.ofNat 2 (rest / 2 ^ 22)))
  else .error .reservedBits

/-- INVTX: `S[3]`, `K[2:0]` (R103). -/
def decodeInvTx (rest : Nat) : Except DecodeError Instr :=
  if rest < 16 then
    match rest with
    | 0 => .ok .haar8
    | 1 => .ok .haarrow8
    | 2 => .ok .haarcol8
    | 3 => .ok .slant8
    | 4 => .ok .slantrow8
    | 5 => .ok .slantcol8
    | 6 => .ok .copy8
    | 8 => .ok .haar4
    | 9 => .ok .haarrow4
    | 10 => .ok .haarcol4
    | 11 => .ok .slant4
    | 12 => .ok .slantrow4
    | 13 => .ok .slantcol4
    | _ => .error .reservedForm
  else .error .reservedBits

/-- DCTX: `S[3]`, `K[2:0]` (R103). -/
def decodeDcTx (rest : Nat) : Except DecodeError Instr :=
  if rest < 16 then
    match rest with
    | 0 => .ok .dchaar8
    | 3 => .ok .dcslant8
    | 4 => .ok .dcrowslant8
    | 5 => .ok .dccolslant8
    | 6 => .ok .dccopy8
    | 8 => .ok .dchaar4
    | 11 => .ok .dcslant4
    | 12 => .ok .dcrowslant4
    | 13 => .ok .dccolslant4
    | _ => .error .reservedForm
  else .error .reservedBits

/-- MC: `T2[6:5]`, `T[4:3]`, `A[2]`, `D[1]`, `S[0]`; `T2` is 0 when `A` is (R108, R109). -/
def decodeMC (rest : Nat) : Except DecodeError Instr :=
  let t := BitVec.ofNat 2 (rest / 8)
  let t2 := BitVec.ofNat 2 (rest / 32)
  if 128 ≤ rest then .error .reservedBits
  else if rest / 4 % 2 = 0 ∧ rest / 32 ≠ 0 then .error .reservedForm
  else
    match rest % 8 with
    | 0 => .ok (.mc8nd t)
    | 1 => .ok (.mc4nd t)
    | 2 => .ok (.mc8d t)
    | 3 => .ok (.mc4d t)
    | 4 => .ok (.mcavg8nd t t2)
    | 5 => .ok (.mcavg4nd t t2)
    | 6 => .ok (.mcavg8d t t2)
    | _ => .ok (.mcavg4d t t2)

/-- The command of opcode `opc` with the operand bits `rest` = `CW[25:0]` (R102). -/
def decodeFields (opc rest : Nat) : Except DecodeError Instr :=
  match opc with
  | 0x01 => decodeBR rest .getbits
  | 0x02 => decodeBR rest .getbitslong
  | 0x03 => decodeBR rest .getbits64
  | 0x04 => decodeBR rest .getsbits
  | 0x05 => decodeBR rest .getsbitslong
  | 0x06 => decodeBR rest .showbits
  | 0x07 => decodeBR rest .showbitslong
  | 0x08 => decodeBR rest .skipbits
  | 0x09 => decodeBR rest .skipbitslong
  | 0x0A => decodeN rest .align
  | 0x0B => decodeVL rest .getvlc2
  | 0x0C => decodeN rest .bitscount
  | 0x0D => decodeN rest .bitsleft
  | 0x10 => decodeHB rest .huffbuild
  | 0x11 => decodeHB rest .initvlc
  | 0x12 => decodeHD rest .dechuffdesc
  | 0x18 => decodeInvTx rest
  | 0x19 => decodeDcTx rest
  | 0x20 => decodeMC rest
  | 0x28 => decodeN rest .dequant
  | 0x29 => decodePB rest .decblk
  | 0x2A => decodePB rest .dcblk
  | 0x2B => decodePB rest .dectileblks
  | 0x2C => decodePB rest .emptytile
  | 0x2D => decodePB rest .decmbinfo
  | 0x2E => decodePB rest .decband
  | 0x2F => decodeN rest .tilesize
  | 0x30 => decodeN rest .decframe
  | 0x31 => decodeN rest .pichdr
  | 0x32 => decodeN rest .initplanes
  | 0x33 => decodeN rest .inittiles
  | 0x34 => decodeN rest .switchbuf
  | 0x35 => decodeN rest .recomphaar
  | 0x36 => decodeN rest .recomp53
  | 0x37 => decodePB rest .outplane
  | 0x38 => decodePB rest .bandhdr
  | 0x39 => decodeN rest .gophdr
  | 0x3F => decodeN rest .reset
  | _ => .error .reservedOpcode

/-- The decoder: the command a command word names, or why it names none. -/
def decode (cw : CommandWord) : Except DecodeError Instr :=
  decodeFields (cw.toNat / 2 ^ 26) (cw.toNat % 2 ^ 26)

/-- The operand bits of a PB word. -/
def encodePB (p b : BitVec 2) : Nat := p.toNat * 2 ^ 24 + b.toNat * 2 ^ 22

/-- The operand bits of an MC word: `asd` is the three bits `A`, `D`, `S`. -/
def encodeMC (t2 t : BitVec 2) (asd : Nat) : Nat := t2.toNat * 32 + t.toNat * 8 + asd

/-- The opcode and the operand bits of a command, written from R101 to R103 and R109. -/
def encodeFields : Instr → Nat × Nat
  | .getbits n => (0x01, n.toNat)
  | .getbitslong n => (0x02, n.toNat)
  | .getbits64 n => (0x03, n.toNat)
  | .getsbits n => (0x04, n.toNat)
  | .getsbitslong n => (0x05, n.toNat)
  | .showbits n => (0x06, n.toNat)
  | .showbitslong n => (0x07, n.toNat)
  | .skipbits n => (0x08, n.toNat)
  | .skipbitslong n => (0x09, n.toNat)
  | .align => (0x0A, 0)
  | .getvlc2 t d b => (0x0B, t.toNat * 2 ^ 20 + d.toNat * 2 ^ 16 + b.toNat)
  | .bitscount => (0x0C, 0)
  | .bitsleft => (0x0D, 0)
  | .huffbuild t => (0x10, t.toNat * 2 ^ 20)
  | .initvlc t => (0x11, t.toNat * 2 ^ 20)
  | .dechuffdesc t w c => (0x12, t.toNat * 2 ^ 20 + w.toNat * 2 + c.toNat)
  | .haar8 => (0x18, 0)
  | .haarrow8 => (0x18, 1)
  | .haarcol8 => (0x18, 2)
  | .slant8 => (0x18, 3)
  | .slantrow8 => (0x18, 4)
  | .slantcol8 => (0x18, 5)
  | .copy8 => (0x18, 6)
  | .haar4 => (0x18, 8)
  | .haarrow4 => (0x18, 9)
  | .haarcol4 => (0x18, 10)
  | .slant4 => (0x18, 11)
  | .slantrow4 => (0x18, 12)
  | .slantcol4 => (0x18, 13)
  | .dchaar8 => (0x19, 0)
  | .dchaar4 => (0x19, 8)
  | .dcslant8 => (0x19, 3)
  | .dcslant4 => (0x19, 11)
  | .dcrowslant8 => (0x19, 4)
  | .dcrowslant4 => (0x19, 12)
  | .dccolslant8 => (0x19, 5)
  | .dccolslant4 => (0x19, 13)
  | .dccopy8 => (0x19, 6)
  | .mc8nd t => (0x20, encodeMC 0 t 0)
  | .mc8d t => (0x20, encodeMC 0 t 2)
  | .mc4nd t => (0x20, encodeMC 0 t 1)
  | .mc4d t => (0x20, encodeMC 0 t 3)
  | .mcavg8nd t t2 => (0x20, encodeMC t2 t 4)
  | .mcavg8d t t2 => (0x20, encodeMC t2 t 6)
  | .mcavg4nd t t2 => (0x20, encodeMC t2 t 5)
  | .mcavg4d t t2 => (0x20, encodeMC t2 t 7)
  | .dequant => (0x28, 0)
  | .decblk p b => (0x29, encodePB p b)
  | .dcblk p b => (0x2A, encodePB p b)
  | .dectileblks p b => (0x2B, encodePB p b)
  | .emptytile p b => (0x2C, encodePB p b)
  | .decmbinfo p b => (0x2D, encodePB p b)
  | .decband p b => (0x2E, encodePB p b)
  | .tilesize => (0x2F, 0)
  | .decframe => (0x30, 0)
  | .pichdr => (0x31, 0)
  | .initplanes => (0x32, 0)
  | .inittiles => (0x33, 0)
  | .switchbuf => (0x34, 0)
  | .recomphaar => (0x35, 0)
  | .recomp53 => (0x36, 0)
  | .outplane p b => (0x37, encodePB p b)
  | .bandhdr p b => (0x38, encodePB p b)
  | .gophdr => (0x39, 0)
  | .reset => (0x3F, 0)

/-- The encoder: the command word of a command. -/
def encode (i : Instr) : CommandWord :=
  BitVec.ofNat 32 ((encodeFields i).1 * 2 ^ 26 + (encodeFields i).2)

/-- The command the decoder reads from an instruction whose bits are `w` (the command word is one 32-bit word; the
bits above `nbits` are 0), for the host's check. -/
def decodeTableWord (nbits w : Nat) : Option Instr :=
  match decode (BitVec.ofNat 32 (w % 2 ^ nbits)) with
  | .ok i => some i
  | .error _ => none

end Sys2Proof
end

