-- ==== Sys2Proof/Machine/Cells.lean ====
section
/-! DEFINITION. Sparse memories: lists of (address, value) cells whose addresses strictly rise. A band buffer is such a
list with no cell equal to 0, the value an unlisted sample reads as (20_memory.md R84: "Band buffers are
zero-filled when allocated"); an output plane lists every byte that was written, and an unlisted byte has no value
(10_state.md R54: "unspecified contents"). -/

namespace Sys2Proof.Machine

variable {α : Type}

/-- The value listed at an address. -/
def cellsLookup : List (Nat × α) → Nat → Option α
  | [], _ => none
  | (a, v) :: rest, x => if a = x then some v else cellsLookup rest x

/-- Lists `v` at address `x`, in place of what stood there. -/
def cellsInsert : List (Nat × α) → Nat → α → List (Nat × α)
  | [], x, v => [(x, v)]
  | (a, w) :: rest, x, v =>
    if x < a then (x, v) :: (a, w) :: rest
    else if x = a then (x, v) :: rest
    else (a, w) :: cellsInsert rest x v

/-- Takes the cell at address `x` away. -/
def cellsErase : List (Nat × α) → Nat → List (Nat × α)
  | [], _ => []
  | (a, w) :: rest, x => if a = x then rest else (a, w) :: cellsErase rest x

/-- The addresses strictly rise. -/
def cellsSorted : List (Nat × α) → Bool
  | [] => true
  | (a, _) :: rest => rest.all (fun c => decide (a < c.1)) && cellsSorted rest

/-- A band buffer's samples (R83). -/
abbrev Buf := List (Nat × Sample)

/-- The canonical form of a band buffer: rising offsets, no sample 0 listed. -/
def bufWf (b : Buf) : Bool := cellsSorted b && b.all fun c => decide (c.2 ≠ 0)

/-- One sample of a band buffer. -/
def bufRead (b : Buf) (off : Nat) : Sample := (cellsLookup b off).getD 0

/-- Stores one sample, keeping the canonical form. -/
def bufWrite (b : Buf) (off : Nat) (v : Sample) : Buf :=
  if v = 0 then cellsErase b off else cellsInsert b off v

end Sys2Proof.Machine
end

