-- ==== Sys2Proof/Config.lean ====
section
/-! DEFINITION. What is fixed for one engine: the settled parameters of 00_scope.md R8, the record of the open
parameters of R9, and the free values, which are constants without a body (log 4, log 5). -/

namespace Sys2Proof

namespace Machine

/-! ### What the functional parameters speak of -/

/-- The inverse transforms (42_transforms.md R210 to R222). -/
inductive InvTx where
  | haar8
  | haarrow8
  | haarcol8
  | slant8
  | slantrow8
  | slantcol8
  | copy8
  | haar4
  | haarrow4
  | haarcol4
  | slant4
  | slantrow4
  | slantcol4
  deriving DecidableEq, Repr

/-- The buffer-index registers (10_state.md R36). -/
structure Rotation where
  bufSwitch : Bool
  dstBuf : Fin 4
  refBuf : Fin 4
  ref2Buf : Fin 4
  bRefBuf : Fin 4
  interScal : Bool
  deriving DecidableEq, Repr, Inhabited

end Machine

namespace Config

/-! ### Settled parameters (R8) -/

/-- `P_VLC_BITS`: the index bits of every table built from a descriptor. -/
abbrev vlcBits : Nat := 13

/-- `P_MAX_CODES`: the most codes a descriptor may give. -/
abbrev maxCodes : Nat := 256

/-- `P_MAX_CODE_LEN`: the longest codeword a table may hold. -/
abbrev maxCodeLen : Nat := 32

/-- `P_MAX_TABLE_BITS`: the widest root level of a table. -/
abbrev maxTableBits : Nat := 30

/-- `INT_MAX` of the allocation limit. -/
abbrev intMax : Nat := 2 ^ 31 - 1

/-! ### Free values: nothing constrains them. The first argument of the drawn ones is `State.draws`. -/

/-- A bit of the padding (20_memory.md R81), and of a byte the host did not hand over (log 11). -/
opaque freeBit : Nat → Bool

/-- `RES` after a command that raised (10_state.md R31, 60_exceptions.md R403). -/
opaque freeRes : Nat → BitVec 64

/-- An output sample of a transform whose arithmetic left 32 bits (42_transforms.md R204), and a sample that
OUTPLANE reads beyond its band buffer (log 17). -/
opaque freeSample : Nat → Sample

/-- `trvec[i]` between commands (10_state.md R50). -/
opaque freeTrvec : Nat → Nat → Coef

/-- `col_flags[i]` between commands (R50). -/
opaque freeColFlag : Nat → Nat → Bool

/-- `prev_dc` between commands (R50). -/
opaque freePrevDc : Nat → Coef

/-- `scan_pos` between commands (R50). -/
opaque freeScanPos : Nat → Int

/-- `mctmp[i]` between commands (10_state.md R51). -/
opaque freeMcTmp : Nat → Nat → Sample

/-- How many macroblocks a tile has when the macroblock size is 0 (log 20). -/
opaque freeCount : Nat → Nat

/-- `SCALEMV(mv, s)` for a negative `s`: 44_coeff_dequant.md R293 states `s >= 1` (log 21). -/
opaque scaleMvBelow : Int → Int → Int

/-- Entry `pos` of a base table `t` that `P_QUANT4` does not have: 4x4 table 5, and table 6 of either size, which stands for
a matrix past the end of `index_to_tab` (log 22). The first argument is true for the intra table. -/
opaque quant4Beyond : Bool → Nat → Nat → BitVec 16

/-- An entry of a base table past its end (log 22). -/
opaque baseBeyond : Nat → BitVec 16

/-- An entry of a scale table past its end (log 22). -/
opaque scaleBeyond : Nat → Byte

/-- An entry of a scan table past its end (log 22). -/
opaque scanBeyond : Nat → Nat

/-! ### Open tables without contents (92_eei_decisions.md D7, D11, D12, D13): the reset instance's contents. -/

/-- `P_STD_SIZES5[i]`: width and height (D7), each 16 bits unsigned (DESIGN CHOICE, log 52). -/
opaque stdSizes5 : Nat → BitVec 16 × BitVec 16

/-- `P_RVMAPS[m].eob_sym` (D11). -/
opaque rvEob : Nat → Byte

/-- `P_RVMAPS[m].esc_sym` (D11). -/
opaque rvEsc : Nat → Byte

/-- `P_RVMAPS[m].runtab[i]` (D11). -/
opaque rvRun : Nat → Nat → Byte

/-- `P_RVMAPS[m].valtab[i]` (D11). -/
opaque rvVal : Nat → Nat → BitVec 16

/-- `P_QUANT4.intra8[t][i]` (D12). -/
opaque quant4Intra8 : Nat → Nat → BitVec 16

/-- `P_QUANT4.inter8[t][i]` (D12). -/
opaque quant4Inter8 : Nat → Nat → BitVec 16

/-- `P_QUANT4.intra4[t][i]` (D12). -/
opaque quant4Intra4 : Nat → Nat → BitVec 16

/-- `P_QUANT4.inter4[t][i]` (D12). -/
opaque quant4Inter4 : Nat → Nat → BitVec 16

/-- `P_QUANT5.base8_intra[m][i]` (D12). -/
opaque quant5Base8Intra : Nat → Nat → BitVec 16

/-- `P_QUANT5.base8_inter[m][i]` (D12). -/
opaque quant5Base8Inter : Nat → Nat → BitVec 16

/-- `P_QUANT5.scale8_intra[m][i]` (D12). -/
opaque quant5Scale8Intra : Nat → Nat → Byte

/-- `P_QUANT5.scale8_inter[m][i]` (D12). -/
opaque quant5Scale8Inter : Nat → Nat → Byte

/-- `P_QUANT5.base4_intra[i]` (D12). -/
opaque quant5Base4Intra : Nat → BitVec 16

/-- `P_QUANT5.base4_inter[i]` (D12). -/
opaque quant5Base4Inter : Nat → BitVec 16

/-- `P_QUANT5.scale4_intra[i]` (D12). -/
opaque quant5Scale4Intra : Nat → Byte

/-- `P_QUANT5.scale4_inter[i]` (D12). -/
opaque quant5Scale4Inter : Nat → Byte

/-- The alternate 8x8 scan, a permutation of the block positions whose order 45_frame_engine.md R343 does not
give (D13). -/
opaque alternateScan8 : Equiv.Perm (Fin 64)

/-! ### Other values of the functional parameters (00_scope.md R9; 93_implementation_defined.md I13). The first argument
numbers the value; the parameter itself says which number is meant (`Choice`, log 6). -/

/-- Sample `(r, c)` that an inverse transform of another `P_KERNELS` gives for its coefficients and flags
(92_eei_decisions.md D14). -/
opaque otherKernel : Nat → Machine.InvTx → List Coef → List Bool → Nat → Nat → Sample

/-- Another `P_ROTATE4`: of the previous frame's type, the new one and the indices (D17). `Rotation.apart` keeps 20_memory.md
R93 for it. -/
opaque otherRotate4 : Nat → BitVec 3 → BitVec 3 → Machine.Rotation → Machine.Rotation

/-- Another `P_ROTATE5` (D17). -/
opaque otherRotate5 : Nat → BitVec 3 → BitVec 3 → Machine.Rotation → Machine.Rotation

/-- Another `P_RECOMP53`: of the width and the height, the samples `bk(i, j)`, a position of the band domain and the
number 0 to 3 of one of the values `p0` to `p3` PUT there (D26). -/
opaque otherRecomp53 : Nat → Nat → Nat → (Nat → Nat → Nat → Int) → Nat → Nat → Nat → Int

end Config

/-! ### The open parameters (R9) as data -/

/-- `P_CODEC` (R11). -/
inductive Codec where
  | indeo4
  | indeo5
  deriving DecidableEq, Repr

/-- `P_BIT_ORDER` (20_memory.md R81, R82; D3). -/
inductive BitOrder where
  | le
  | be
  deriving DecidableEq, Repr

/-- `P_HUFF_NOT_CODED` (41_vlc.md R178; D8). -/
inductive HuffNotCoded where
  | reuse
  | default7
  deriving DecidableEq, Repr

/-- `P_OVER256` (41_vlc.md R171; D9). -/
inductive Over256 where
  | error
  | truncate
  deriving DecidableEq, Repr

/-- `P_EMPTY_BAND` (44_coeff_dequant.md R292; D16). -/
inductive EmptyBand where
  | keep
  | zero
  | error
  deriving DecidableEq, Repr

/-- The value of a functional parameter: its default, or another function, which `Config` numbers (log 6). -/
inductive Choice where
  | standard
  | other (n : Nat)
  deriving DecidableEq, Repr

/-- A Huffman descriptor: `num_rows` and sixteen `xbits` (41_vlc.md R170; 90_conflicts.md C9). -/
structure HuffDesc where
  numRows : Fin 17
  xbits : Vector (BitVec 4) 16
  deriving DecidableEq, Repr

/-- A run-value map (10_state.md R43). -/
structure RvMap where
  eobSym : Byte
  escSym : Byte
  runtab : Vector Byte 256
  valtab : Vector (BitVec 16) 256
  deriving DecidableEq, Repr

/-- `P_QUANT4` (45_frame_engine.md R341). -/
structure Quant4 where
  indexToTab : List (Fin 6)
  intra8 : Vector (Vector (BitVec 16) 64) 6
  inter8 : Vector (Vector (BitVec 16) 64) 6
  intra4 : Vector (Vector (BitVec 16) 16) 5
  inter4 : Vector (Vector (BitVec 16) 16) 5
  deriving DecidableEq, Repr

/-- `P_QUANT5` (45_frame_engine.md R354). -/
structure Quant5 where
  base8Intra : Vector (Vector (BitVec 16) 64) 5
  base8Inter : Vector (Vector (BitVec 16) 64) 5
  scale8Intra : Vector (Vector Byte 24) 5
  scale8Inter : Vector (Vector Byte 24) 5
  base4Intra : Vector (BitVec 16) 16
  base4Inter : Vector (BitVec 16) 16
  scale4Intra : Vector Byte 24
  scale4Inter : Vector Byte 24
  deriving DecidableEq, Repr

/-- The instance's parameters (R9, R11). They are arguments of the model, which no command writes (R440); the state
carries them so that a statement about every state is one about every value of them (log 1). The sizes of
`P_STD_SIZES4` and `P_STD_SIZES5`, to which the spec gives no width, are 16 bits unsigned (DESIGN CHOICE, log 52). -/
structure Params where
  codec : Codec
  bitOrder : BitOrder
  padBits : Nat
  stdSizes4 : Vector (BitVec 16 × BitVec 16) 7
  stdSizes5 : Vector (BitVec 16 × BitVec 16) 15
  huffNotCoded : HuffNotCoded
  over256 : Over256
  maxCodeLenIvi : Nat
  predefMbDesc : Vector HuffDesc 8
  predefBlkDesc : Vector HuffDesc 8
  rvmaps : Vector RvMap 9
  quant4 : Quant4
  quant5 : Quant5
  /-- `P_SCANS.i4` (R343): each scan maps a scan position to a coefficient index. -/
  scans4 : Vector (List Nat) 15
  /-- `P_SCANS` of Indeo5, by `k` of R355. -/
  scans5 : Vector (List Nat) 5
  /-- `P_KERNELS.is2d4` (30_encoding.md R126). -/
  is2d4 : Vector Bool 18
  /-- The inverse transforms of `P_KERNELS`, by default those of 42_transforms.md R202 to R222. -/
  kernels : Choice
  emptyBand : EmptyBand
  /-- `P_ROTATE4`, by default 45_frame_engine.md R360. -/
  rotate4 : Choice
  /-- `P_ROTATE5`, by default 45_frame_engine.md R361. -/
  rotate5 : Choice
  /-- `P_RECOMP53`, by default 45_frame_engine.md R382. -/
  recomp53 : Choice
  maxNumCorr : Nat
  deriving DecidableEq, Repr

end Sys2Proof
end

