-- ==== Sys2Proof/Machine/Defaults.lean ====
section
/-! DEFINITION. The parameter values of the reset instance: the defaults of 92_eei_decisions.md (log 7), and the open
tables of `Config` where it gives no default (log 5). -/

namespace Sys2Proof.Machine

/-- A descriptor from its list of `xbits` (rows past the list are 0). -/
def descOf (rows : Fin 17) (xs : List Nat) : HuffDesc :=
  ⟨rows, Vector.ofFn fun i => BitVec.ofNat 4 (xs.getD i 0)⟩

/-- `P_PREDEF_MB_DESC` (41_vlc.md R182). -/
def defaultMbDesc : Vector HuffDesc 8 := #v[
  descOf 8 [0, 4, 5, 4, 4, 4, 6, 6],
  descOf 12 [0, 2, 2, 3, 3, 3, 3, 5, 3, 2, 2, 2],
  descOf 12 [0, 2, 3, 4, 3, 3, 3, 3, 4, 3, 2, 2],
  descOf 12 [0, 3, 4, 4, 3, 3, 3, 3, 3, 2, 2, 2],
  descOf 13 [0, 4, 4, 3, 3, 3, 3, 2, 3, 3, 2, 1, 1],
  descOf 9 [0, 4, 4, 4, 4, 3, 3, 3, 2],
  descOf 10 [0, 4, 4, 4, 4, 3, 3, 2, 2, 2],
  descOf 12 [0, 4, 4, 4, 3, 3, 2, 3, 2, 2, 2, 2]]

/-- `P_PREDEF_BLK_DESC` (41_vlc.md R182). -/
def defaultBlkDesc : Vector HuffDesc 8 := #v[
  descOf 10 [1, 2, 3, 4, 4, 7, 5, 5, 4, 1],
  descOf 11 [2, 3, 4, 4, 4, 7, 5, 4, 3, 3, 2],
  descOf 12 [2, 4, 5, 5, 5, 5, 6, 4, 4, 3, 1, 1],
  descOf 13 [3, 3, 4, 4, 5, 6, 6, 4, 4, 3, 2, 1, 1],
  descOf 11 [3, 4, 4, 5, 5, 5, 6, 5, 4, 2, 2],
  descOf 13 [3, 4, 5, 5, 5, 5, 6, 4, 3, 3, 2, 1, 1],
  descOf 13 [3, 4, 5, 5, 5, 6, 5, 4, 3, 3, 2, 1, 1],
  descOf 9 [3, 4, 4, 5, 5, 5, 6, 5, 5]]

/-- `P_STD_SIZES4` (45_frame_engine.md R332): width and height. -/
def defaultStdSizes4 : Vector (BitVec 16 × BitVec 16) 7 := #v[
  (640, 480), (320, 240), (160, 120), (704, 480), (352, 240), (352, 288), (176, 144)]

/-- Row-major order of a block of `n * n` positions: the horizontal scan, and the direct 4x4 scan (R343). -/
def scanHorizontal (n : Nat) : List Nat := List.range (n * n)

/-- Column-major order (R343). -/
def scanVertical (n : Nat) : List Nat := (List.range (n * n)).map fun k => k % n * n + k / n

/-- The zigzag 8x8 scan, "the standard JPEG order" (R343). -/
def scanZigzag8 : List Nat :=
  [0, 1, 8, 16, 9, 2, 3, 10, 17, 24, 32, 25, 18, 11, 4, 5,
   12, 19, 26, 33, 40, 48, 41, 34, 27, 20, 13, 6, 7, 14, 21, 28,
   35, 42, 49, 56, 57, 50, 43, 36, 29, 22, 15, 23, 30, 37, 44, 51,
   58, 59, 52, 45, 38, 31, 39, 46, 53, 60, 61, 54, 47, 55, 62, 63]

/-- The alternate 8x8 scan: R343 names it and gives no order (log 5). -/
def scanAlternate8 : List Nat := (List.finRange 64).map fun k => (Config.alternateScan8 k).val

/-- `P_SCANS.i4` (R343); entry 6 is the direct 4x4 order (log 36). -/
def defaultScans4 : Vector (List Nat) 15 := #v[
  scanZigzag8, scanAlternate8, scanHorizontal 8, scanVertical 8, scanZigzag8,
  scanHorizontal 4, scanHorizontal 4, scanVertical 4, scanHorizontal 4, scanHorizontal 4,
  scanHorizontal 8, scanHorizontal 8, scanHorizontal 8, scanHorizontal 8, scanHorizontal 8]

/-- The scans of Indeo5, by `k` (R355). -/
def defaultScans5 : Vector (List Nat) 5 := #v[
  scanZigzag8, scanVertical 8, scanHorizontal 8, scanHorizontal 8, scanHorizontal 4]

/-- The column `is_2d_trans` of 30_encoding.md R126; the unsupported ids hold 0 and are never read. -/
def defaultIs2d4 : Vector Bool 18 := #v[
  true, false, false, true, true, true, true, false, false, false, true, true, false,
  false, false, false, false, false]

/-- `P_RVMAPS`: no default (log 5). -/
def openRvMaps : Vector RvMap 9 :=
  Vector.ofFn fun m =>
    { eobSym := Config.rvEob m
      escSym := Config.rvEsc m
      runtab := Vector.ofFn fun i => Config.rvRun m i
      valtab := Vector.ofFn fun i => Config.rvVal m i }

/-- A family of open tables, of `n` tables with `k` entries each. -/
def openTables {α : Type} (n k : Nat) (f : Nat → Nat → α) : Vector (Vector α k) n :=
  Vector.ofFn fun t => Vector.ofFn fun i => f t i

/-- `P_QUANT4`: the default index table of R341 and open tables (log 5). -/
def openQuant4 : Quant4 where
  indexToTab := [0, 1, 0, 2, 1, 3, 0, 4, 1, 5, 0, 1, 0, 2, 1, 3, 0, 4, 1, 5, 0, 1]
  intra8 := openTables 6 64 Config.quant4Intra8
  inter8 := openTables 6 64 Config.quant4Inter8
  intra4 := openTables 5 16 Config.quant4Intra4
  inter4 := openTables 5 16 Config.quant4Inter4

/-- `P_QUANT5`: open tables (log 5). -/
def openQuant5 : Quant5 where
  base8Intra := openTables 5 64 Config.quant5Base8Intra
  base8Inter := openTables 5 64 Config.quant5Base8Inter
  scale8Intra := openTables 5 24 Config.quant5Scale8Intra
  scale8Inter := openTables 5 24 Config.quant5Scale8Inter
  base4Intra := Vector.ofFn fun i => Config.quant5Base4Intra i
  base4Inter := Vector.ofFn fun i => Config.quant5Base4Inter i
  scale4Intra := Vector.ofFn fun i => Config.quant5Scale4Intra i
  scale4Inter := Vector.ofFn fun i => Config.quant5Scale4Inter i

/-- The parameters of the instance `State.reset` stands for: Indeo4 with every default (log 1, log 7). -/
def defaultParams : Params where
  codec := .indeo4
  bitOrder := .le
  padBits := 512
  stdSizes4 := defaultStdSizes4
  stdSizes5 := Vector.ofFn fun i => Config.stdSizes5 i
  huffNotCoded := .reuse
  over256 := .error
  maxCodeLenIvi := 32
  predefMbDesc := defaultMbDesc
  predefBlkDesc := defaultBlkDesc
  rvmaps := openRvMaps
  quant4 := openQuant4
  quant5 := openQuant5
  scans4 := defaultScans4
  scans5 := defaultScans5
  is2d4 := defaultIs2d4
  kernels := .standard
  emptyBand := .keep
  rotate4 := .standard
  rotate5 := .standard
  recomp53 := .standard
  maxNumCorr := 61

end Sys2Proof.Machine
end

