-- ==== Sys2Proof/Machine/Vlc.lean ====
section
/-! DEFINITION. VLC tables: the codes a descriptor gives (41_vlc.md R171 to R173), the table built from a list of codes
(R175), and the entry an index selects at one level of it (R176, R177). A table is held as its root width and its codes;
the entries are computed from them (log 13). -/

namespace Sys2Proof.Machine

/-- A code: its bits in stream order, the most significant canonical bit first (R175; 30_encoding.md R125), and
its symbol. -/
structure VlcCode where
  bits : List Bool
  sym : Int
  deriving DecidableEq, Repr

/-- A built table (R176). -/
structure VlcTable where
  rootBits : Nat
  codes : List VlcCode
  deriving DecidableEq, Repr

/-- Why a table build fails (R171, R175). -/
inductive VlcError where
  | tooMany
  | tooLong
  | tableBits
  | badDesc
  deriving DecidableEq, Repr

/-- The `len` lowest bits of `v`, most significant first. -/
def msbFirst (v len : Nat) : List Bool :=
  (List.range len).map fun k => v.testBit (len - 1 - k)

/-! ### Building -/

/-- The bits of code `j` of row `i` (R172): `i` one-bits, a zero bit unless the row is the last, `x` bits of `j`. The
one code that would be empty is the single bit 0 (R171, `len = 0`). -/
def rowCode (i x : Nat) (last : Bool) (j : Nat) : List Bool :=
  match List.replicate i true ++ (if last then [] else [false]) ++ msbFirst j x with
  | [] => [false]
  | bs => bs

/-- The first `n` codes of a row, whose symbols count on from `pos` (R173). -/
def rowCodes (i x : Nat) (last : Bool) (pos n : Nat) : List VlcCode :=
  (List.range n).map fun j => ⟨rowCode i x last j, ((pos + j : Nat) : Int)⟩

/-- The codes of rows `i`, `i + 1`, … with the extra bits listed, from build position `pos` on (R171). A row's first
code meets the count test and then the length test, and its later codes can fail only the count test. -/
def buildRows (policy : Over256) (maxLen : Nat) : Nat → List Nat → Nat → Except VlcError (List VlcCode)
  | _, [], _ => .ok []
  | i, x :: xs, pos =>
    let last := xs.isEmpty
    let room := Config.maxCodes - pos
    if room = 0 then
      match policy with
      | .error => .error .tooMany
      | .truncate => .ok []
    else if maxLen < i + x + (if last then 0 else 1) then .error .tooLong
    else if room < 2 ^ x then
      match policy with
      | .error => .error .tooMany
      | .truncate => .ok (rowCodes i x last pos room)
    else
      match buildRows policy maxLen (i + 1) xs (pos + 2 ^ x) with
      | .error e => .error e
      | .ok rest => .ok (rowCodes i x last pos (2 ^ x) ++ rest)

/-- The extra bits of the rows a descriptor uses. -/
def descRows (d : HuffDesc) : List Nat := (d.xbits.toList.take d.numRows).map BitVec.toNat

/-- Equality of descriptors (R170). -/
def descSame (a b : HuffDesc) : Bool := decide (a.numRows = b.numRows) && decide (descRows a = descRows b)

/-- No code equals or begins another (R175). -/
def prefixFree : List VlcCode → Bool
  | [] => true
  | c :: cs => cs.all (fun d => !c.bits.isPrefixOf d.bits && !d.bits.isPrefixOf c.bits) && prefixFree cs

/-- INITVLC's pseudocode over codes given as stream bits (R175). -/
def initVlc (rootBits : Nat) (codes : List VlcCode) : Except VlcError VlcTable :=
  let kept := codes.filter fun c => !c.bits.isEmpty
  if Config.maxTableBits < rootBits ∨ rootBits = 0 then .error .tableBits
  else if codes.any fun c => decide (Config.maxCodeLen < c.bits.length) then .error .tooLong
  else if prefixFree kept then .ok ⟨rootBits, kept⟩
  else .error .badDesc

/-- HUFFBUILD's pseudocode (R171). -/
def huffBuild (p : Params) (d : HuffDesc) : Except VlcError VlcTable :=
  match buildRows p.over256 p.maxCodeLenIvi 0 (descRows d) 0 with
  | .error e => .error e
  | .ok codes => initVlc Config.vlcBits codes

/-- A predefined table (R182): absent when its descriptor does not build (93_implementation_defined.md I14). -/
def predefTable (p : Params) (d : HuffDesc) : Option VlcTable :=
  match huffBuild p d with
  | .ok t => some t
  | .error _ => none

/-- `PREDEF(MB, i)` (10_state.md R42). -/
def predefMbTables (p : Params) : Vector (Option VlcTable) 8 := p.predefMbDesc.map (predefTable p)

/-- Block descriptor 7 is the default of R182. -/
def defaultLast (p : Params) : Bool := descSame p.predefBlkDesc[7] defaultBlkDesc[7]

/-- `PREDEF(BLK, 7)`. R182 says that the default descriptors build, but the last of them has 264 codes, which R171 refuses
under `P_OVER256 = ERROR`: that one descriptor at that place keeps its first 256 codes whatever `P_OVER256` is (DESIGN
CHOICE, log 42). -/
def predefBlkLast (p : Params) : Option VlcTable :=
  predefTable (if defaultLast p then { p with over256 := .truncate } else p) p.predefBlkDesc[7]

/-- `PREDEF(BLK, i)` (10_state.md R42). -/
def predefBlkTables (p : Params) : Vector (Option VlcTable) 8 :=
  (p.predefBlkDesc.map (predefTable p)).set 7 (predefBlkLast p)

/-! ### Lookup -/

/-- What an index selects at one level (R176). -/
inductive VlcEntry where
  | code (sym : Int) (len : Nat)
  | sub (codes : List VlcCode) (nb : Nat)
  | empty
  deriving DecidableEq, Repr

/-- The codes longer than `n` bits that begin with `idx`, without those bits: the group of R177. -/
def subGroup (codes : List VlcCode) (n : Nat) (idx : List Bool) : List VlcCode :=
  (codes.filter fun c => decide (n < c.bits.length) && idx.isPrefixOf c.bits).map fun c => { c with bits := c.bits.drop n }

/-- The longest code of a group. -/
def longest (codes : List VlcCode) : Nat := codes.foldr (fun c m => max c.bits.length m) 0

/-- The entry for the `n` stream bits `idx` of a level whose codes are `codes` (R176), with the sub-table width of
R177. -/
def vlcEntry (rootBits : Nat) (codes : List VlcCode) (n : Nat) (idx : List Bool) : VlcEntry :=
  match codes.find? fun c => decide (c.bits.length ≤ n) && c.bits.isPrefixOf idx with
  | some c => .code c.sym c.bits.length
  | none =>
    match subGroup codes n idx with
    | [] => .empty
    | c :: cs => .sub (c :: cs) (min (longest (c :: cs)) rootBits)

end Sys2Proof.Machine
end

