-- ==== Sys2Proof/Machine/State.lean ====
section
/-! DEFINITION. The state of the engine as plain data (10_state.md, 20_memory.md), and the state right after reset
(70_reset_and_hazards.md R440, R441). INVENTORY.md lists every field with the rule that names it. -/

namespace Sys2Proof.Machine

/-! ### Names -/

/-- The error kinds (60_exceptions.md R401). -/
inductive ErrKind where
  | none
  | illegalCommand
  | badState
  | brOverrun
  | vlcDepth
  | huffTooMany
  | huffTooLong
  | huffTableBits
  | huffBadDesc
  | huffEmpty
  | badStartCode
  | badFrameType
  | badHeader
  | unsupported
  | allocFail
  | notAllocated
  | gopInvalid
  | geometryMismatch
  | tileSizeMismatch
  | mvOob
  | blockOob
  | noReference
  | refInvalid
  | badSymbol
  | blockCorrupt
  deriving DecidableEq, Repr

/-- The step register's values (10_state.md R33). -/
inductive FStep where
  | idle
  | picHdr
  | switch
  | bands
  | recompose
  | output
  deriving DecidableEq, Repr

/-- The allocation state (10_state.md R40). -/
inductive Alloc where
  | uninit
  | allocated
  deriving DecidableEq, Repr

/-- The kind of a predefined table: macroblock or block (10_state.md R42). -/
inductive VlcKind where
  | mb
  | blk
  deriving DecidableEq, Repr

/-- What a Huffman register selects (10_state.md R41). -/
inductive TabRef where
  | predef (kind : VlcKind) (i : Fin 8)
  | custom
  | pic
  deriving DecidableEq, Repr

/-- The DC-only transforms (42_transforms.md R231 to R237). -/
inductive DcTx where
  | dchaar8
  | dchaar4
  | dcslant8
  | dcslant4
  | dcrowslant8
  | dcrowslant4
  | dccolslant8
  | dccolslant4
  | dccopy8
  deriving DecidableEq, Repr

/-- DECFRAME's mode (45_frame_engine.md R371). -/
inductive FrameMode where
  | full
  | bind
  deriving DecidableEq, Repr

/-! ### Operand records -/

/-- The eight fields of a picture configuration (10_state.md R38). -/
structure PicConf where
  picWidth : BitVec 16
  picHeight : BitVec 16
  chromaWidth : BitVec 16
  chromaHeight : BitVec 16
  tileWidth : BitVec 16
  tileHeight : BitVec 16
  lumaBands : BitVec 3
  chromaBands : BitVec 3
  deriving DecidableEq, Repr

/-- All fields 0: the reset value of `pic_conf` (R38). -/
def PicConf.zero : PicConf := ⟨0, 0, 0, 0, 0, 0, 0, 0⟩

/-- One code of INITVLC's operand (41_vlc.md R175): `code` is 32 bits wide (log 47), and `sym`, to which R175 gives no
width, is an integer of any size (DESIGN CHOICE, log 51). -/
structure OprCode where
  code : BitVec 32
  len : Nat
  sym : Int
  deriving DecidableEq, Repr

/-- A destination `(p, b, k, off)` in the band arena (42_transforms.md R200). -/
structure Dst where
  p : Nat
  b : Nat
  k : Nat
  off : Int
  deriving DecidableEq, Repr

/-- The operand record of a command (30_encoding.md R110), one flat record of every field a command's rule lists
(log 3): each command reads the fields its rule names. Indices and offsets have no bound of their own (log 51). -/
structure Opr where
  /-- HUFFBUILD (R171). -/
  desc : HuffDesc
  /-- INITVLC (R175). -/
  rootBits : Nat
  codes : List OprCode
  le : Bool
  /-- INVTX (R200): `in` and `flags`; DCTX (R230): `dc`; both: `dst` and `pitch`, whose sign and range the rules leave
  open: a natural number of any size (DESIGN CHOICE, log 43). -/
  coefs : Vector Coef 64
  flags : Vector Bool 8
  dc : Coef
  dst : Dst
  pitch : Nat
  /-- MC (R250): `(p, b, k, off)` is `dst`, and the two references. -/
  k1 : Nat
  roff1 : Int
  k2 : Nat
  roff2 : Int
  /-- Tile, macroblock and block (R280). -/
  t : Nat
  m : Nat
  blk : Nat
  /-- DEQUANT (R280): `p`, `b` are those of `dst`; `val`, to which R280 and R282 give no width, is a signed 32-bit
  value, as the coefficients and the result of R282 are (DESIGN CHOICE, log 50). -/
  intra : Bool
  pos : Nat
  val : BitVec 32
  quant : Int
  /-- DECFRAME (R371). -/
  chunk : List Byte
  len : Nat
  mode : FrameMode
  /-- INITPLANES (R312). -/
  cfg : PicConf
  /-- INITTILES (R317), whose operands' width and sign the rule leaves open: 16 bits unsigned, as the tile fields of
  `pic_conf` are (DESIGN CHOICE, log 48). -/
  tileWidth : BitVec 16
  tileHeight : BitVec 16
  deriving DecidableEq, Repr

/-- The operand record with every field 0. -/
def Opr.zero : Opr where
  desc := ⟨0, Vector.replicate 16 0⟩
  rootBits := 0
  codes := []
  le := false
  coefs := Vector.replicate 64 0
  flags := Vector.replicate 8 false
  dc := 0
  dst := ⟨0, 0, 0, 0⟩
  pitch := 0
  k1 := 0
  roff1 := 0
  k2 := 0
  roff2 := 0
  t := 0
  m := 0
  blk := 0
  intra := false
  pos := 0
  val := 0
  quant := 0
  chunk := []
  len := 0
  mode := .full
  cfg := PicConf.zero
  tileWidth := 0
  tileHeight := 0

/-- A command waiting at the command port: its word and its operand record (R100, R110). -/
structure HostCmd where
  cw : CommandWord
  opr : Opr
  deriving DecidableEq, Repr

/-! ### The engine's records -/

/-- The bit reader (10_state.md R34). `buf` holds the bytes of the bound buffer, which the engine never writes. -/
structure BitReader where
  buf : Option (List Byte)
  sizeBits : Nat
  index : Nat
  deriving DecidableEq, Repr

/-- The reset values of R36. -/
def Rotation.reset : Rotation := ⟨false, 0, 1, 2, 3, false⟩

/-- The stream flags and header fields (10_state.md R39). -/
structure Header where
  isScalable : Bool
  gopInvalid : Bool
  frameNum : BitVec 20
  gopFlags : BitVec 8
  gopHdrSize : BitVec 16
  lockWord : BitVec 32
  frameFlags : BitVec 8
  picHdrSize : BitVec 24
  checksum : BitVec 16
  hasTransp : Bool
  dataSize : BitVec 24
  usesTiling : Bool
  inImf : Bool
  inQ : Bool
  picGlobQuant : BitVec 5
  unknown1 : BitVec 3
  rvmapSel : BitVec 4
  hasBFrames : Bool
  usesHaar : Bool
  usesFullpel : Bool
  deriving DecidableEq, Repr

/-- All fields 0 (R39). -/
def Header.zero : Header :=
  ⟨false, false, 0, 0, 0, 0, 0, 0, 0, false, 0, false, false, false, 0, 0, 0, false, false, false⟩

/-- A Huffman table register (10_state.md R41). -/
structure HuffTab where
  tabSel : BitVec 3
  tab : TabRef
  custDesc : HuffDesc
  custTab : Option VlcTable
  deriving DecidableEq, Repr

/-- The reset value of R41. -/
def HuffTab.reset (kind : VlcKind) : HuffTab := ⟨7, .predef kind 7, ⟨0, Vector.replicate 16 0⟩, none⟩

/-- A macroblock (10_state.md R49). -/
structure Mb where
  xpos : Nat
  ypos : Nat
  bufOffs : Nat
  type : BitVec 2
  cbp : BitVec 4
  qDelta : Int
  mvX : Int
  mvY : Int
  bMvX : Int
  bMvY : Int
  deriving DecidableEq, Repr

/-- All fields 0: a macroblock on creation (R49). -/
def Mb.zero : Mb := ⟨0, 0, 0, 0, 0, 0, 0, 0, 0, 0⟩

/-- A tile (10_state.md R48). `num_MBs` is the length of `mbs`; `refTile` is the index of the tile of band (0, 0)
whose macroblocks are `ref_mbs` (log 25). -/
structure Tile where
  xpos : Nat
  ypos : Nat
  width : Nat
  height : Nat
  mbSize : Nat
  isEmpty : Bool
  dataSize : BitVec 24
  mbs : List Mb
  refTile : Option Nat
  deriving DecidableEq, Repr

/-- A band (10_state.md R45). Its buffers `bufs[k]` are in the arena (`Memory`). -/
structure Band where
  plane : Nat
  bandNum : Nat
  width : Nat
  height : Nat
  pitch : Nat
  aheight : Nat
  buf : Option (Fin 4)
  refBuf : Option (Fin 4)
  bRefBuf : Option (Fin 4)
  mbSize : Nat
  blkSize : Nat
  transformSize : Nat
  invTransform : Option InvTx
  dcTransform : Option DcTx
  is2d : Bool
  scan : Option (List Nat)
  scanSize : Nat
  quantMat : BitVec 5
  intraBase : Option (List (BitVec 16))
  interBase : Option (List (BitVec 16))
  intraScale : Option (List Byte)
  interScale : Option (List Byte)
  globQuant : BitVec 5
  isHalfpel : Bool
  inheritMv : Bool
  inheritQdelta : Bool
  qdeltaPresent : Bool
  isEmpty : Bool
  checksumPresent : Bool
  checksum : BitVec 16
  dataSize : BitVec 24
  rvmapSel : Fin 9
  numCorr : Nat
  corr : List Byte
  blkVlc : HuffTab
  numTiles : Nat
  tiles : List Tile
  deriving DecidableEq, Repr

/-- `bufsize = pitch * aheight` (R45). -/
def Band.bufsize (b : Band) : Nat := b.pitch * b.aheight

/-- A plane (10_state.md R44). `num_bands` is the length of `bands`. -/
structure Plane where
  width : BitVec 16
  height : BitVec 16
  bands : List Band
  deriving DecidableEq, Repr

/-- A plane without bands: the reset value of R44 (log 35). -/
def Plane.none : Plane := ⟨0, 0, []⟩

/-- The kernels' working state (10_state.md R50, R51). -/
structure Scratch where
  trvec : Vector Coef 64
  colFlags : Vector Bool 8
  prevDc : Coef
  scanPos : Int
  mctmp : Vector Sample 64
  deriving DecidableEq, Repr

/-- The model's value of the working state at reset, which the spec leaves unspecified (log 15). -/
def Scratch.zero : Scratch := ⟨Vector.replicate 64 0, Vector.replicate 8 false, 0, 0, Vector.replicate 64 0⟩

/-! ### Memory -/

/-- The band arena and the output planes (20_memory.md R83 to R85). The arena lists the buffers that exist, by
`bufKey`; a sample a buffer does not list is 0 (R84). An output byte that is not listed has no value (log 16). -/
structure Memory where
  arena : List (Nat × Buf)
  out : Vector (List Host.Cell) 3
  deriving DecidableEq, Repr

/-- No buffer, no output byte. -/
def Memory.empty : Memory := ⟨[], Vector.replicate 3 []⟩

/-- The canonical form: keys, offsets and addresses strictly rise, and no sample 0 is listed. -/
def Memory.wf (m : Memory) : Bool :=
  cellsSorted m.arena && m.arena.all (fun e => bufWf e.2) && m.out.toList.all cellsSorted

/-! ### The state -/

/-- The state of the machine. The last five fields are the model's own (log 1, 2, 3, 4, 16). -/
structure State where
  /-- `RES` (R31). -/
  res : BitVec 64
  /-- `STATUS.ERR` (R32). -/
  err : ErrKind
  /-- `STATUS.FRAME_ABORTED` (R32). -/
  frameAborted : Bool
  /-- `STATUS.OUT_VALID` (R32). -/
  outValid : Bool
  /-- `FSTEP` (R33). -/
  fstep : FStep
  /-- `BR` (R34). -/
  br : BitReader
  /-- `frame_type` (R35). -/
  frameType : BitVec 3
  /-- `prev_frame_type` (R35). -/
  prevFrameType : BitVec 3
  /-- The buffer-index registers (R36). -/
  rot : Rotation
  /-- `buf_invalid[0..3]` (R37). -/
  bufInvalid : Vector Bool 4
  /-- `pic_conf` (R38). -/
  picConf : PicConf
  /-- The stream flags and header fields (R39). -/
  hdr : Header
  /-- `alloc_state` (R40). -/
  alloc : Alloc
  /-- `mb_vlc` (R41). -/
  mbVlc : HuffTab
  /-- The picture-level `blk_vlc` (R41). -/
  blkVlc : HuffTab
  /-- `table(48)` (R56). -/
  slot48 : Option VlcTable
  /-- `PREDEF(MB, i)` (R42). -/
  predefMb : Vector (Option VlcTable) 8
  /-- `PREDEF(BLK, i)` (R42). -/
  predefBlk : Vector (Option VlcTable) 8
  /-- `rvmap_desc[0..8]` (R43). -/
  rvmaps : Vector RvMap 9
  /-- `planes[0..2]` (R44). -/
  planes : Vector Plane 3
  /-- The working state of the kernels (R50, R51). -/
  scratch : Scratch
  /-- The band arena and the output planes. -/
  mem : Memory
  /-- The instance's parameters, which no command writes (R11, R440). -/
  params : Params
  /-- `out_pitch[0..2]`, the host's choice (R85). -/
  outPitch : Vector Nat 3
  /-- The commands the host has issued and the engine has not run. -/
  port : List HostCmd
  /-- The operand record of the current command (R110). -/
  opr : Opr
  /-- How many free values have been drawn. -/
  draws : Nat
  deriving DecidableEq, Repr

/-- No command stops the machine: after any error the engine accepts the next command (60_exceptions.md R409), so
there is no reason for a fault. -/
inductive Fault where
  deriving DecidableEq, Repr

/-- Why the model refuses a command. No meaning raises it (safe: it would only stop the model). -/
inductive Refusal where
  /-- The command has no meaning in the model yet; raised by no arm. -/
  | notModelled (mnemonic : String)
  deriving DecidableEq, Repr

/-- The state RESET leaves in an engine with the parameters `p` (R441). -/
def State.resetWith (p : Params) : State where
  res := 0
  err := .none
  frameAborted := false
  outValid := false
  fstep := .idle
  br := ⟨none, 0, 0⟩
  frameType := 0
  prevFrameType := 0
  rot := Rotation.reset
  bufInvalid := Vector.replicate 4 false
  picConf := PicConf.zero
  hdr := Header.zero
  alloc := .uninit
  mbVlc := HuffTab.reset .mb
  blkVlc := HuffTab.reset .blk
  slot48 := none
  predefMb := predefMbTables p
  predefBlk := predefBlkTables p
  rvmaps := p.rvmaps
  planes := Vector.replicate 3 Plane.none
  scratch := Scratch.zero
  mem := Memory.empty
  params := p
  outPitch := Vector.replicate 3 0
  port := []
  opr := Opr.zero
  draws := 0

/-- The machine right after reset: the power-on state (R440) of an instance with the default parameters. -/
def State.reset : State := State.resetWith defaultParams

end Sys2Proof.Machine
end

