-- ==== Sys2Proof/Machine/Ops.lean ====
section
/-! DEFINITION. The shared operations: raising an error and completing a command (60_exceptions.md R400 to R404), the
frame abort (R410), the bit reader (20_memory.md R81, R82; 40_bitreader.md R140, R141), access to the band arena, the
output planes and the descriptors. -/

namespace Sys2Proof.Machine

/-! ### Commands as programs -/

/-- A part of a command: it changes the state and may raise an error kind, keeping the writes made before the raise
(R403). -/
abbrev M := EStateM ErrKind State

/-- `raise E` (00_scope.md R14). -/
def raise {α : Type} (e : ErrKind) : M α := fun s => .error e s

/-- Raises `e` when the test fails the rule. -/
def raiseIf (bad : Bool) (e : ErrKind) : M Unit := fun s => if bad then .error e s else .ok () s

/-- Reads the state. -/
def look {α : Type} (f : State → α) : M α := fun s => .ok (f s) s

/-- Writes the state. -/
def update (f : State → State) : M Unit := fun s => .ok () (f s)

/-- Does nothing. -/
def done : M Unit := fun s => .ok () s

/-- A value that must be present. -/
def need {α : Type} (e : ErrKind) (x : Option α) : M α := fun s =>
  match x with
  | some a => .ok a s
  | none => .error e s

/-- Runs a program for each element in turn; the first raise ends it. -/
def forEach {α : Type} (f : α → M Unit) : List α → M Unit
  | [] => done
  | x :: xs => f x >>= fun _ => forEach f xs

/-- Repeats a program while it answers true, at most `n` times (log 32). -/
def repeatWhile (f : M Bool) : Nat → M Unit
  | 0 => raise .brOverrun
  | n + 1 => f >>= fun again => if again then repeatWhile f n else done

/-- Runs `m`, then `after` on the state it leaves, whether it completes or raises. -/
def finally' (m : M Unit) (after : State → State) : M Unit := fun s =>
  match m s with
  | .ok a s' => .ok a (after s')
  | .error e s' => .error e (after s')

/-- Runs `m`, and `repair` on the state it leaves when it raises; the error goes on. -/
def onError {α : Type} (m : M α) (repair : State → State) : M α := fun s =>
  match m s with
  | .ok a s' => .ok a s'
  | .error e s' => .error e (repair s')

/-- Runs `m`; when it raises, `BR.index` is as it was (40_bitreader.md R140). -/
def keepingCursor {α : Type} (m : M α) : M α := fun s =>
  match m s with
  | .ok a s' => .ok a s'
  | .error e s' => .error e { s' with br := { s'.br with index := s.br.index } }

/-- A command run by another command: its head check, then its body (R404). -/
def sub (check : State → Option ErrKind) (body : M Unit) : M Unit := fun s =>
  match check s with
  | some e => .error e s
  | none => body s

/-! ### Taking an error and completing (R400 to R403) -/

/-- The error kind of a failed table build (41_vlc.md R171, R175). -/
def VlcError.kind : VlcError → ErrKind
  | .tooMany => .huffTooMany
  | .tooLong => .huffTooLong
  | .tableBits => .huffTableBits
  | .badDesc => .huffBadDesc

/-- A command that completes: `STATUS.ERR` is 0 (R403). -/
def State.complete (s : State) : State := { s with err := .none }

/-- TAKING AN ERROR (R400, R403): `STATUS.ERR` holds its kind, and `RES` is unspecified. -/
def State.raised (e : ErrKind) (s : State) : State :=
  { s with err := e, res := Config.freeRes s.draws, draws := s.draws + 1 }

/-- A command-class error at the head of a command: only `STATUS.ERR` changes (R402). -/
def State.refuse (e : ErrKind) (s : State) : State := { s with err := e }

/-- An error raised by a check at the head of a command (R402, R403). -/
def State.headError (e : ErrKind) (s : State) : State :=
  if e = .badState ∨ e = .illegalCommand then s.refuse e else s.raised e

/-- The state a whole command leaves: the checks of the command word (R104, R404), its head checks in order, then its
body. -/
def runCommand (i : Instr) (check : State → Option ErrKind) (body : M Unit) (s : State) : State :=
  if i.wellFormed then
    match check s with
    | some e => s.headError e
    | none =>
      match body s with
      | .ok _ s' => s'.complete
      | .error e s' => s'.raised e
  else s.refuse .illegalCommand

/-- The outcome of a command: the engine goes on after every error (R409). -/
def command (i : Instr) (check : State → Option ErrKind) (body : M Unit) (s : State) :
    Host.Outcome State Fault Refusal :=
  .next (runCommand i check body s)

/-- No head check. -/
def noCheck (_ : State) : Option ErrKind := none

/-- The first check that fails. -/
def firstError : List (Bool × ErrKind) → Option ErrKind
  | [] => none
  | (bad, e) :: rest => if bad then some e else firstError rest

/-! ### Free values -/

/-- The working state between commands (10_state.md R50, R51): every element is a draw. -/
def Scratch.free (d : Nat) : Scratch where
  trvec := Vector.ofFn fun i => Config.freeTrvec d i
  colFlags := Vector.ofFn fun i => Config.freeColFlag d i
  prevDc := Config.freePrevDc d
  scanPos := Config.freeScanPos d
  mctmp := Vector.ofFn fun i => Config.freeMcTmp d i

/-- Leaves the working state unspecified (R50). -/
def State.releaseScratch (s : State) : State :=
  { s with scratch := Scratch.free s.draws, draws := s.draws + 1 }

/-! ### The result register -/

/-- `RES <- v` (10_state.md R31). -/
def setRes (v : BitVec 64) : M Unit := update fun s => { s with res := v }

/-! ### The bit reader -/

/-- A bitstream is bound (40_bitreader.md R140). -/
def State.bound (s : State) : Bool := s.br.buf.isSome

/-- The head check of the commands that read the bitstream: BAD_STATE without one (R140). -/
def needStream (s : State) : Option ErrKind := if s.bound then none else some .badState

/-- `Avail(n)` (R140). -/
def State.avail (s : State) (n : Nat) : Bool := decide (s.br.index + n ≤ s.br.sizeBits + s.params.padBits)

/-- The bit at position `i` of a byte list, in the order of R81. -/
def streamBit (order : BitOrder) (bytes : List Byte) (i : Nat) : Option Bool :=
  match bytes[i / 8]? with
  | none => none
  | some byte =>
    match order with
    | .le => some (byte.getLsbD (i % 8))
    | .be => some (byte.getLsbD (7 - i % 8))

/-- `BsBit(i)` (20_memory.md R81), or none where it is a draw: at or beyond `BR.size_bits`, and where the host handed no
byte over (log 11). -/
def State.bsBit (s : State) (i : Nat) : Option Bool :=
  if i < s.br.sizeBits then
    match s.br.buf with
    | none => none
    | some bytes => streamBit s.params.bitOrder bytes i
  else none

/-- The bit `k` places after the cursor, a draw where `BsBit` is one. -/
def State.bitAhead (s : State) (k : Nat) : Bool := (s.bsBit (s.br.index + k)).getD (Config.freeBit (s.draws + k))

/-- The next `n` bits in stream order. -/
def State.bitsAhead (s : State) (n : Nat) : List Bool := (List.range n).map s.bitAhead

/-- How many draws looking at the next `n` bits uses up: none when no bit of them is a draw. -/
def State.drawsAhead (s : State) (n : Nat) : Nat :=
  if (List.range n).all fun k => (s.bsBit (s.br.index + k)).isSome then 0 else n

/-- Bits in stream order as a number whose first bit is the least significant (R82, LE). -/
def bitsLE : List Bool → Nat
  | [] => 0
  | b :: bs => b.toNat + 2 * bitsLE bs

/-- Bits in stream order as a number whose first bit is the most significant (R82, BE). -/
def bitsBE : List Bool → Nat
  | [] => 0
  | b :: bs => b.toNat * 2 ^ bs.length + bitsBE bs

/-- Bits assembled as R82 says. -/
def bitsValue (order : BitOrder) (bs : List Bool) : Nat :=
  match order with
  | .le => bitsLE bs
  | .be => bitsBE bs

/-- `Peek(n)` (R140). -/
def State.peek (s : State) (n : Nat) : Nat := bitsValue s.params.bitOrder (s.bitsAhead n)

/-- The state after `n` bits were looked at. -/
def State.looked (s : State) (n : Nat) : State := { s with draws := s.draws + s.drawsAhead n }

/-- The cursor moved by `n` bits. -/
def State.moved (s : State) (n : Nat) : State := { s with br := { s.br with index := s.br.index + n } }

/-- Why the next `n` bits cannot be read: no bitstream (log 10), or past the padding (R140, R141). -/
def State.readError (s : State) (n : Nat) : Option ErrKind :=
  if s.bound then if s.avail n then none else some .brOverrun else some .badState

/-- `Read(n)` (R140). -/
def readBits (n : Nat) : M Nat := fun s =>
  match s.readError n with
  | some e => .error e s
  | none => .ok (s.peek n) ((s.looked n).moved n)

/-- `Peek(n)` where `Avail(n)` holds, else BR_OVERRUN (R147). -/
def showBits (n : Nat) : M Nat := fun s =>
  match s.readError n with
  | some e => .error e s
  | none => .ok (s.peek n) (s.looked n)

/-- Moves the cursor by `n` bits without looking at them (R150). -/
def skipBits (n : Nat) : M Unit := fun s =>
  match s.readError n with
  | some e => .error e s
  | none => .ok () (s.moved n)

/-- `Read(1) = 1`. -/
def readFlag : M Bool := readBits 1 >>= fun v => pure (decide (v = 1))

/-- `Read(n)` into an `n`-bit cell. -/
def readField (n : Nat) : M (BitVec n) := readBits n >>= fun v => pure (BitVec.ofNat n v)

/-- How far ALIGN moves the cursor (R149). -/
def State.alignGap (s : State) : Nat := (8 - s.br.index % 8) % 8

/-- ALIGN (R149). -/
def alignBits : M Unit := fun s => skipBits s.alignGap s

/-- More bits than any loop that reads at least one bit a turn can read (log 32). -/
def State.loopFuel (s : State) : Nat := s.br.sizeBits + s.params.padBits + 1 - s.br.index + 1

/-- Repeats a program that reads at least one bit each turn, while it answers true. -/
def readLoop (f : M Bool) : M Unit := fun s => repeatWhile f s.loopFuel s

/-! ### The band arena (20_memory.md R83, R84) -/

/-- The arena key of buffer `k` of band `(p, b)`. -/
def bufKey (p b k : Nat) : Nat := (p * 8 + b) * 4 + k

/-- Buffer `k` of band `(p, b)`, or none where it is NONE. -/
def State.buffer? (s : State) (p b k : Nat) : Option Buf :=
  if b < 8 ∧ k < 4 then cellsLookup s.mem.arena (bufKey p b k) else none

/-- `bufs[k]` of band `(p, b)` exists. -/
def State.hasBuffer (s : State) (p b k : Nat) : Bool := (s.buffer? p b k).isSome

/-- The samples of buffer `k` of band `(p, b)`. -/
def State.bufferOf (s : State) (p b k : Nat) : Buf := (s.buffer? p b k).getD []

/-- `BufRead`: sample `off` of buffer `k` of band `(p, b)` (R83). -/
def State.sample (s : State) (p b k off : Nat) : Sample := bufRead (s.bufferOf p b k) off

/-- The state with the samples of an existing buffer replaced. -/
def State.setBuffer (s : State) (p b k : Nat) (buf : Buf) : State :=
  { s with mem := { s.mem with arena :=
      (if s.hasBuffer p b k then cellsInsert s.mem.arena (bufKey p b k) buf else s.mem.arena) } }

/-- A buffer with the listed stores made in order: `BufWrite` stores `wrap16(v)` (R83). -/
def storeSamples (buf : Buf) : List (Nat × Int) → Buf
  | [] => buf
  | (a, v) :: rest => storeSamples (bufWrite buf a (wrap16 v)) rest

/-! ### The output planes (R85) -/

/-- The bytes of output plane `t`. -/
def State.outPlane (s : State) (t : Fin 3) : List Host.Cell := s.mem.out[t]

/-- Byte `a` of output plane `t`, where it has a value. -/
def State.outByte (s : State) (t : Fin 3) (a : Nat) : Option Byte := cellsLookup (s.outPlane t) a

/-- The state with the bytes of an output plane replaced. -/
def State.setOut (s : State) (t : Fin 3) (cells : List Host.Cell) : State :=
  { s with mem := { s.mem with out := s.mem.out.set t cells } }

/-- A plane with the listed bytes written in order (`OutWrite`). -/
def storeBytes (cells : List Host.Cell) : List (Nat × Byte) → List Host.Cell
  | [] => cells
  | (a, v) :: rest => storeBytes (cellsInsert cells a v) rest

/-- `out_pitch` of output plane `t`, at least the width of the plane (R85; log 16). -/
def State.outPitchOf (s : State) (t : Fin 3) (width : Nat) : Nat := max s.outPitch[t] width

/-! ### Descriptors -/

/-- Plane `p`. -/
def State.plane? (s : State) (p : Nat) : Option Plane := s.planes[p]?

/-- Band `(p, b)`. -/
def State.band? (s : State) (p b : Nat) : Option Band :=
  match s.plane? p with
  | none => none
  | some pl => pl.bands[b]?

/-- Tile `t` of band `(p, b)`. -/
def State.tile? (s : State) (p b t : Nat) : Option Tile :=
  match s.band? p b with
  | none => none
  | some bd => bd.tiles[t]?

/-- Macroblock `m` of tile `t` of band `(p, b)`. -/
def State.mb? (s : State) (p b t m : Nat) : Option Mb :=
  match s.tile? p b t with
  | none => none
  | some tl => tl.mbs[m]?

/-- The planes with plane `p` changed. -/
def modifyPlane (planes : Vector Plane 3) (p : Nat) (f : Plane → Plane) : Vector Plane 3 :=
  planes.mapIdx fun i pl => if i = p then f pl else pl

/-- Writes fields of plane `p`. -/
def State.updPlane (s : State) (p : Nat) (f : Plane → Plane) : State := { s with planes := modifyPlane s.planes p f }

/-- Writes fields of band `(p, b)`. -/
def State.updBand (s : State) (p b : Nat) (f : Band → Band) : State :=
  s.updPlane p fun pl => { pl with bands := pl.bands.modify b f }

/-- Writes fields of a tile. -/
def State.updTile (s : State) (p b t : Nat) (f : Tile → Tile) : State :=
  s.updBand p b fun bd => { bd with tiles := bd.tiles.modify t f }

/-- Writes fields of a macroblock. -/
def State.updMb (s : State) (p b t m : Nat) (f : Mb → Mb) : State :=
  s.updTile p b t fun tl => { tl with mbs := tl.mbs.modify m f }

/-- Writes header fields. -/
def updHdr (f : Header → Header) : M Unit := update fun s => { s with hdr := f s.hdr }

/-- Writes fields of band `(p, b)`. -/
def updBand (p b : Nat) (f : Band → Band) : M Unit := update fun s => s.updBand p b f

/-- Band `(p, b)`; BAD_STATE where it does not exist (30_encoding.md R108). -/
def getBand (p b : Nat) : M Band := fun s => need .badState (s.band? p b) s

/-- Tile `t`; BAD_STATE where it does not exist (44_coeff_dequant.md R280). -/
def getTile (p b t : Nat) : M Tile := fun s => need .badState (s.tile? p b t) s

/-- Macroblock `m`; BAD_STATE where it does not exist (R280). -/
def getMb (p b t m : Nat) : M Mb := fun s => need .badState (s.mb? p b t m) s

/-! ### The frame abort (R410) -/

/-- What a DECFRAME that raised leaves: `before` is the state when it started, `s` the state at the raise. `OUT` and
`OUT_VALID` keep the values they had before it. -/
def frameAbort (before s : State) : State :=
  { s with frameAborted := true, fstep := .idle, outValid := before.outValid,
           mem := { s.mem with out := before.mem.out } }

end Sys2Proof.Machine
end

