-- ==== Sys2Proof/Machine/Flags.lean ====
section
/-! DEFINITION. The flags of the engine (10_state.md R55): the codes and the word of `STATUS` (R32; 60_exceptions.md
R401), and the column flags of a block (10_state.md R50). -/

namespace Sys2Proof.Machine

/-- The code of an error kind (R401). -/
def ErrKind.code : ErrKind → BitVec 8
  | .none => 0
  | .illegalCommand => 1
  | .badState => 2
  | .brOverrun => 3
  | .vlcDepth => 4
  | .huffTooMany => 5
  | .huffTooLong => 6
  | .huffTableBits => 7
  | .huffBadDesc => 8
  | .huffEmpty => 9
  | .badStartCode => 10
  | .badFrameType => 11
  | .badHeader => 12
  | .unsupported => 13
  | .allocFail => 14
  | .notAllocated => 15
  | .gopInvalid => 16
  | .geometryMismatch => 17
  | .tileSizeMismatch => 18
  | .mvOob => 19
  | .blockOob => 20
  | .noReference => 21
  | .refInvalid => 22
  | .badSymbol => 23
  | .blockCorrupt => 24

/-- The word `STATUS` (10_state.md R32): bits 31:11 read as 0. -/
def State.statusWord (s : State) : BitVec 32 :=
  BitVec.ofNat 32 (s.err.code.toNat + s.frameAborted.toNat * 2 ^ 8 + s.outValid.toNat * 2 ^ 9
    + (decide (s.alloc = .allocated)).toNat * 2 ^ 10)

/-- No column flag. -/
def noColFlags : Vector Bool 8 := Vector.replicate 8 false

/-- `col_flags[pos & (n-1)] |= (v != 0)` (44_coeff_dequant.md R285). -/
def markColumn (flags : Vector Bool 8) (pos n : Nat) (v : Coef) : Vector Bool 8 :=
  let c := pos % n
  flags.setIfInBounds c (flags[c]?.getD false || decide (v ≠ 0))

end Sys2Proof.Machine
end

