-- ==== Sys2Proof/Machine/Operands.lean ====
section
/-! DEFINITION. The operand forms: table slots and Huffman registers (30_encoding.md R107), bands, tiles, macroblocks and
blocks (R108; 44_coeff_dequant.md R280), and the checks of them at the head of a command. -/

namespace Sys2Proof.Machine

/-! ### Table slots (R107) -/

/-- The predefined table a reference names. -/
def State.predef (s : State) (kind : VlcKind) (i : Fin 8) : Option VlcTable :=
  match kind with
  | .mb => s.predefMb[i]
  | .blk => s.predefBlk[i]

/-- The table a register selects on its own (`PIC` is resolved by `State.tableOf`). -/
def State.ownTable (s : State) (h : HuffTab) : Option VlcTable :=
  match h.tab with
  | .predef kind i => s.predef kind i
  | .custom => h.custTab
  | .pic => none

/-- The table a register selects (10_state.md R41). -/
def State.tableOf (s : State) (h : HuffTab) : Option VlcTable :=
  match h.tab with
  | .pic => s.ownTable s.blkVlc
  | _ => s.ownTable h

/-- The Huffman register slot `t` names: 16, 17, 32 + 4p + b. -/
def State.huffReg? (s : State) (t : Nat) : Option HuffTab :=
  if t = 16 then some s.mbVlc
  else if t = 17 then some s.blkVlc
  else if 32 ≤ t ∧ t < 44 then (s.band? ((t - 32) / 4) ((t - 32) % 4)).map Band.blkVlc
  else none

/-- Writes the Huffman register slot `t` names. -/
def State.setHuffReg (s : State) (t : Nat) (h : HuffTab) : State :=
  if t = 16 then { s with mbVlc := h }
  else if t = 17 then { s with blkVlc := h }
  else if 32 ≤ t ∧ t < 44 then s.updBand ((t - 32) / 4) ((t - 32) % 4) fun bd => { bd with blkVlc := h }
  else s

/-- `table(T)`: the table slot `t` names. -/
def State.table? (s : State) (t : Nat) : Option VlcTable :=
  if h : t < 8 then s.predefMb[t]
  else if h : t < 16 then s.predefBlk[t - 8]
  else if t = 48 then s.slot48
  else match s.huffReg? t with
    | some r => s.tableOf r
    | none => none

/-! ### Bands, tiles, macroblocks, blocks (R280) -/

/-- Band `(p, b)` exists (30_encoding.md R108). -/
def State.hasBand (s : State) (p b : Nat) : Bool := (s.band? p b).isSome

/-- What R280 asks of a band before a block, tile or coefficient command: it exists, the engine is allocated and the
band's destination buffer exists (log 19). -/
def State.bandReady (s : State) (p b : Nat) : Bool :=
  s.hasBand p b && decide (s.alloc = .allocated) && s.hasBuffer p b s.rot.dstBuf

/-- BAD_STATE unless the test holds. -/
def orBadState (ok : Bool) : Option ErrKind := if ok then none else some .badState

/-- The head check of a command on band `(p, b)` (R108). -/
def checkBand (p b : Nat) (s : State) : Option ErrKind := orBadState (s.hasBand p b)

/-- The head check of DEQUANT's band (R280). -/
def checkReady (p b : Nat) (s : State) : Option ErrKind := orBadState (s.bandReady p b)

/-- The head check of a command on tile `t` (R280). -/
def checkTile (p b t : Nat) (s : State) : Option ErrKind :=
  orBadState (s.bandReady p b && (s.tile? p b t).isSome)

/-- The head check of a command on block `blk` of macroblock `m` (R280; log 38). -/
def checkBlock (p b t m blk : Nat) (s : State) : Option ErrKind :=
  orBadState (s.bandReady p b && (s.mb? p b t m).isSome && decide (blk < 4))

/-! ### Numbers -/

/-- `IVI_TOSIGNED` (00_scope.md R15). -/
def toSigned (u : Nat) : Int := if u % 2 = 1 then ((u + 1) / 2 : Nat) else -((u / 2 : Nat) : Int)

/-- `a >> k` on a signed value (R13). -/
def asr (v : Int) (k : Nat) : Int := v / 2 ^ k

/-- `v & 1` (R13). -/
def lowBit (v : Int) : Nat := (v % 2).toNat

/-- `ceil(a / b)`. -/
def ceilDiv (a b : Nat) : Nat := (a + b - 1) / b

/-- `align(x, a)` (45_frame_engine.md R312). -/
def alignUp (x a : Nat) : Nat := (x + a - 1) / a * a

/-- `clip_u8` (R13). -/
def clipU8 (v : Int) : Byte := BitVec.ofInt 8 (min (max v 0) 255)

end Sys2Proof.Machine
end

