-- ==== Sys2Proof/Machine/BitReaderCmds.lean ====
section
/-! DEFINITION. The bit-reader commands (40_bitreader.md R142 to R153). -/

namespace Sys2Proof.Machine

/-- `RES <- zext_64(Read(n))`. -/
def readToRes (n : Nat) : M Unit := readBits n >>= fun v => setRes (BitVec.ofNat 64 v)

/-- `RES <- sext_n(Read(n))`. -/
def readSignedToRes (n : Nat) : M Unit :=
  readBits n >>= fun v => setRes ((BitVec.ofNat n v).signExtend 64)

/-- `RES <- zext_64(Peek(n))`. -/
def showToRes (n : Nat) : M Unit := showBits n >>= fun v => setRes (BitVec.ofNat 64 v)

/-- GETBITS (R142). -/
def execGetbits (n : BitVec 7) (s : State) : Host.Outcome State Fault Refusal :=
  command (.getbits n) needStream (readToRes n.toNat) s

/-- GETBITSLONG (R143). -/
def execGetbitslong (n : BitVec 7) (s : State) : Host.Outcome State Fault Refusal :=
  command (.getbitslong n) needStream (readToRes n.toNat) s

/-- GETBITS64 (R144). -/
def execGetbits64 (n : BitVec 7) (s : State) : Host.Outcome State Fault Refusal :=
  command (.getbits64 n) needStream (readToRes n.toNat) s

/-- GETSBITS (R145). -/
def execGetsbits (n : BitVec 7) (s : State) : Host.Outcome State Fault Refusal :=
  command (.getsbits n) needStream (readSignedToRes n.toNat) s

/-- GETSBITSLONG (R146). -/
def execGetsbitslong (n : BitVec 7) (s : State) : Host.Outcome State Fault Refusal :=
  command (.getsbitslong n) needStream (readSignedToRes n.toNat) s

/-- SHOWBITS (R147). -/
def execShowbits (n : BitVec 7) (s : State) : Host.Outcome State Fault Refusal :=
  command (.showbits n) needStream (showToRes n.toNat) s

/-- SHOWBITSLONG (R148). -/
def execShowbitslong (n : BitVec 7) (s : State) : Host.Outcome State Fault Refusal :=
  command (.showbitslong n) needStream (showToRes n.toNat) s

/-- SKIPBITS (R150). -/
def execSkipbits (n : BitVec 7) (s : State) : Host.Outcome State Fault Refusal :=
  command (.skipbits n) needStream (skipBits n.toNat) s

/-- SKIPBITSLONG (R151). -/
def execSkipbitslong (n : BitVec 7) (s : State) : Host.Outcome State Fault Refusal :=
  command (.skipbitslong n) needStream (skipBits n.toNat) s

/-- ALIGN (R149). -/
def execAlign (s : State) : Host.Outcome State Fault Refusal :=
  command .align needStream alignBits s

/-- BITSCOUNT (R152). -/
def execBitscount (s : State) : Host.Outcome State Fault Refusal :=
  command .bitscount needStream (look (fun s => s.br.index) >>= fun i => setRes (BitVec.ofNat 64 i)) s

/-- BITSLEFT (R153). -/
def execBitsleft (s : State) : Host.Outcome State Fault Refusal :=
  command .bitsleft needStream
    (look (fun s => (s.br.sizeBits : Int) - s.br.index) >>= fun v => setRes (BitVec.ofInt 64 v)) s

end Sys2Proof.Machine
end

