-- ==== Sys2Proof/Machine/AllocCmds.lean ====
section
/-! DEFINITION. Allocation: INITPLANES and INITTILES (45_frame_engine.md R310 to R317). -/

namespace Sys2Proof.Machine

/-! ### INITPLANES (R312) -/

/-- The size test of R312; its bound is `INT_MAX div 8 = 268435455` (95_test_vectors.md V-FE-3). -/
def configFits (cfg : PicConf) : Bool :=
  let w := cfg.picWidth.toNat
  let h := cfg.picHeight.toNat
  decide (0 < w ∧ 0 < h ∧ (w + 128) * (h + 128) < Config.intMax / 8 ∧ 1 ≤ cfg.lumaBands.toNat
    ∧ 1 ≤ cfg.chromaBands.toNat)

/-- The macroblock size INDEO4 gives a band (R316). -/
def mbSize4 (isScalable : Bool) (p : Nat) : Nat := if p = 0 then if isScalable then 8 else 16 else 4

/-- The block size INDEO4 gives a band (R316). -/
def blkSize4 (p : Nat) : Nat := if p = 0 then 8 else 4

/-- The macroblock and block sizes of a fresh band (10_state.md R47): those of R316 under INDEO4, 0 under INDEO5. -/
def freshSizes (codec : Codec) (isScalable : Bool) (p : Nat) : Nat × Nat :=
  match codec with
  | .indeo4 => (mbSize4 isScalable p, blkSize4 p)
  | .indeo5 => (0, 0)

/-- The alignment of a plane's bands (R312). -/
def planeAlign (p : Nat) : Nat := if p = 0 then 16 else 8

/-- A band's width or height: that of its plane, halved when the plane has several bands (R312). -/
def bandDim (planeDim numBands : Nat) : Nat := if numBands = 1 then planeDim else (planeDim + 1) / 2

/-- A fresh band (10_state.md R47; R312); the fields R47 leaves out are 0 (log 35). -/
def freshBand (params : Params) (isScalable : Bool) (p b width height : Nat) : Band where
  plane := p
  bandNum := b
  width := width
  height := height
  pitch := alignUp width (planeAlign p)
  aheight := alignUp height (planeAlign p)
  buf := none
  refBuf := none
  bRefBuf := none
  mbSize := (freshSizes params.codec isScalable p).1
  blkSize := (freshSizes params.codec isScalable p).2
  transformSize := 0
  invTransform := none
  dcTransform := none
  is2d := false
  scan := none
  scanSize := 0
  quantMat := 0
  intraBase := none
  interBase := none
  intraScale := none
  interScale := none
  globQuant := 0
  isHalfpel := false
  inheritMv := false
  inheritQdelta := false
  qdeltaPresent := false
  isEmpty := false
  checksumPresent := false
  checksum := 0
  dataSize := 0
  rvmapSel := 8
  numCorr := 0
  corr := List.replicate (2 * params.maxNumCorr) 0
  blkVlc := HuffTab.reset .blk
  numTiles := 0
  tiles := []

/-- A plane of `n` fresh bands. -/
def freshPlane (params : Params) (isScalable : Bool) (p : Nat) (width height : BitVec 16) (n : Nat) : Plane where
  width := width
  height := height
  bands := (List.range n).map fun b =>
    freshBand params isScalable p b (bandDim width.toNat n) (bandDim height.toNat n)

/-- `(v + 3) >> 2`. -/
def quarter (v : BitVec 16) : BitVec 16 := BitVec.ofNat 16 ((v.toNat + 3) / 4)

/-- The planes of a configuration (R312). -/
def freshPlanes (params : Params) (isScalable : Bool) (cfg : PicConf) : Vector Plane 3 := #v[
  freshPlane params isScalable 0 cfg.picWidth cfg.picHeight cfg.lumaBands.toNat,
  freshPlane params isScalable 1 (quarter cfg.picWidth) (quarter cfg.picHeight) cfg.chromaBands.toNat,
  freshPlane params isScalable 2 (quarter cfg.picWidth) (quarter cfg.picHeight) cfg.chromaBands.toNat]

/-- Which buffers of a band exist (20_memory.md R84). -/
def bufferExists (codec : Codec) (cfg : PicConf) (k : Nat) : Bool :=
  decide (k = 0) || decide (k = 1) || (decide (k = 2) && decide (1 < cfg.lumaBands.toNat))
    || (decide (k = 3) && decide (codec = .indeo4))

/-- How many bands plane `p` of a configuration has. -/
def PicConf.numBands (cfg : PicConf) (p : Nat) : Nat := if p = 0 then cfg.lumaBands.toNat else cfg.chromaBands.toNat

/-- The arena of a configuration: every buffer zero-filled (R84), so with no sample listed. -/
def freshArena (codec : Codec) (cfg : PicConf) : List (Nat × Buf) :=
  (List.range 3).flatMap fun p => (List.range (cfg.numBands p)).flatMap fun b =>
    ((List.range 4).filter fun k => bufferExists codec cfg k).map fun k => (bufKey p b k, [])

/-- The effect of an INITPLANES whose configuration passes (R312): `alloc_state` is left UNINIT. -/
def State.allocate (s : State) (cfg : PicConf) : State :=
  { s with
    alloc := .uninit
    planes := freshPlanes s.params s.hdr.isScalable cfg
    mem := { s.mem with arena := freshArena s.params.codec cfg } }

/-- The effect of an INITPLANES whose configuration fails (R313): UNINIT, and the planes and their buffers are absent
until an allocation succeeds (log 28). -/
def State.deallocate (s : State) : State :=
  { s with alloc := .uninit, planes := Vector.replicate 3 Plane.none, mem := { s.mem with arena := [] } }

/-- INITPLANES's pseudocode (R312, R313). -/
def initPlanes (cfg : PicConf) : M Unit := fun s =>
  if configFits cfg then .ok () (s.allocate cfg) else .error .allocFail s.deallocate

/-- INITPLANES (R312). -/
def execInitplanes (s : State) : Host.Outcome State Fault Refusal :=
  command .initplanes noCheck (initPlanes s.opr.cfg) s

/-! ### INITTILES (R317) -/

/-- The macroblock count of a tile, from its size and the macroblock size; a macroblock size of 0 gives a draw
(log 20). -/
def mbCount (d w h ms : Nat) : Nat := if ms = 0 then Config.freeCount d else ceilDiv w ms * ceilDiv h ms

/-- The tile of a band at `(x, y)`, without a reference. -/
def freshTile (bd : Band) (tw th x y d : Nat) : Tile :=
  let w := min (bd.width - x) tw
  let h := min (bd.height - y) th
  { xpos := x, ypos := y, width := w, height := h, mbSize := bd.mbSize, isEmpty := false, dataSize := 0,
    mbs := List.replicate (mbCount d w h bd.mbSize) Mb.zero, refTile := none }

/-- The tile positions of a band in raster order. -/
def tilePositions (bd : Band) (tw th : Nat) : List (Nat × Nat) :=
  (List.range (ceilDiv bd.height th)).flatMap fun j => (List.range (ceilDiv bd.width tw)).map fun i => (i * tw, j * th)

/-- Adds a tile to a band. -/
def pushTile (p b : Nat) (tl : Tile) : M Unit := updBand p b fun bd => { bd with tiles := bd.tiles ++ [tl] }

/-- Gives tile `t` of a band other than (0, 0) its reference, tile `t` of band (0, 0) (R317). -/
def linkTile (p b t : Nat) : M Unit :=
  getTile p b t >>= fun tl => look (fun s => s.band? 0 0) >>= fun b0? => need .badState b0? >>= fun b0 =>
  raiseIf (decide (b0.numTiles ≤ t)) .geometryMismatch >>= fun _ =>
  getTile 0 0 t >>= fun ref =>
  raiseIf (decide (tl.mbs.length ≠ ref.mbs.length)) .geometryMismatch >>= fun _ =>
  update fun s => s.updTile p b t fun tl => { tl with refTile := some t }

/-- Builds tile `t` of a band. -/
def buildTile (p b tw th : Nat) (e : (Nat × Nat) × Nat) : M Unit :=
  getBand p b >>= fun bd => look (fun s => s.draws) >>= fun d =>
  pushTile p b (freshTile bd tw th e.1.1 e.1.2 d) >>= fun _ =>
  (if bd.mbSize = 0 then update fun s => { s with draws := s.draws + 1 } else done) >>= fun _ =>
  if p = 0 ∧ b = 0 then done else linkTile p b e.2

/-- Builds the tiles of a band. -/
def buildTiles (p tw th b : Nat) : M Unit :=
  getBand p b >>= fun bd =>
  updBand p b (fun bd =>
    { bd with numTiles := ceilDiv bd.width tw * ceilDiv bd.height th, tiles := [] }) >>= fun _ =>
  forEach (buildTile p b tw th) (tilePositions bd tw th).zipIdx

/-- The tile size of plane `p`: a quarter of the luma tile size in the chroma planes (R317). -/
def planeTileDim (p dim : Nat) : Nat := if p = 0 then dim else (dim + 3) / 4

/-- The tiles of one plane (R317). -/
def planeTiles (tileWidth tileHeight p : Nat) : M Unit :=
  look (fun s => match s.plane? p with | some pl => pl.bands.length | none => 0) >>= fun n =>
  let halved := decide (p = 0) && decide (n = 4)
  let tw0 := planeTileDim p tileWidth
  let th0 := planeTileDim p tileHeight
  raiseIf (halved && decide (tw0 % 2 ≠ 0 ∨ th0 % 2 ≠ 0)) .unsupported >>= fun _ =>
  let tw := if halved then tw0 / 2 else tw0
  let th := if halved then th0 / 2 else th0
  raiseIf (decide (tw = 0 ∨ th = 0)) .badHeader >>= fun _ =>
  forEach (buildTiles p tw th) (List.range n)

/-- INITTILES's pseudocode after its head check (R317). -/
def initTiles (tileWidth tileHeight : Nat) : M Unit := forEach (planeTiles tileWidth tileHeight) [0, 1, 2]

/-- The head check of INITTILES (R317). -/
def checkAllocated (s : State) : Option ErrKind := orBadState (decide (s.alloc = .allocated))

/-- INITTILES (R317). -/
def execInittiles (s : State) : Host.Outcome State Fault Refusal :=
  command .inittiles checkAllocated (initTiles s.opr.tileWidth.toNat s.opr.tileHeight.toNat) s

/-! ### The configuration cache (R310, R311) -/

/-- CFGCMP (R311): the configurations differ in one of the eight fields. -/
def differs (a b : PicConf) : Bool :=
  decide (a.picWidth ≠ b.picWidth) || decide (a.picHeight ≠ b.picHeight)
    || decide (a.chromaWidth ≠ b.chromaWidth) || decide (a.chromaHeight ≠ b.chromaHeight)
    || decide (a.tileWidth ≠ b.tileWidth) || decide (a.tileHeight ≠ b.tileHeight)
    || decide (a.lumaBands ≠ b.lumaBands) || decide (a.chromaBands ≠ b.chromaBands)

/-- INITPLANES run by a header, with what the header does when it succeeds (R310). -/
def reallocate (cfg : PicConf) : M Unit :=
  initPlanes cfg >>= fun _ => update fun s => { s with picConf := cfg, alloc := .allocated }

end Sys2Proof.Machine
end

