-- ==== Sys2Proof/Machine/VlcCmds.lean ====
section
/-! DEFINITION. The VLC commands: GETVLC2 (40_bitreader.md R160), HUFFBUILD, INITVLC and DECHUFFDESC (41_vlc.md R171,
R175, R178), and the VLC read of the block and macroblock layer (44_coeff_dequant.md, preamble). -/

namespace Sys2Proof.Machine

/-- Looks at the next `n` bits; those past the padding are draws like those in it (R160). R160 calls them the missing
high bits of the index, which they are under `P_BIT_ORDER = LE`. Under BE the model takes the last bits in stream order,
the low bits of the index, as the draws (DESIGN CHOICE, log 12). -/
def peekIndex (n : Nat) : M (List Bool) := fun s => .ok (s.bitsAhead n) (s.looked n)

/-- GETVLC2's loop (R160) with `depth` levels left, over the codes of one level of `n` index bits. -/
def vlcWalk (root : Nat) : Nat → List VlcCode → Nat → M Int
  | 0, _, _ => raise .vlcDepth
  | depth + 1, codes, n => peekIndex n >>= fun idx =>
    match vlcEntry root codes n idx with
    | .code sym len => skipBits len >>= fun _ => pure sym
    | .empty => pure (-1)
    | .sub group nb =>
      match depth with
      | 0 => raise .vlcDepth
      | _ => skipBits n >>= fun _ => vlcWalk root depth group nb

/-- GETVLC2's value for a table and a depth; a raise leaves the cursor (R140). -/
def vlcSymbol (t : VlcTable) (depth : Nat) : M Int :=
  keepingCursor (vlcWalk t.rootBits depth t.codes t.rootBits)

/-- The head check of GETVLC2 (R160). -/
def checkVlc (t : Nat) (b : Nat) (s : State) : Option ErrKind :=
  if s.bound then
    match s.table? t with
    | none => some .badState
    | some tbl => if tbl.rootBits = b then none else some .badState
  else some .badState

/-- GETVLC2's body (R160): `RES <- sext(sym)`. -/
def vlcToRes (t d : Nat) : M Unit :=
  look (fun s => s.table? t) >>= fun tbl? => need .badState tbl? >>= fun tbl =>
    vlcSymbol tbl d >>= fun sym => setRes (BitVec.ofInt 64 sym)

/-- GETVLC2 (R160). -/
def execGetvlc2 (t : BitVec 6) (d : BitVec 2) (b : BitVec 5) (s : State) : Host.Outcome State Fault Refusal :=
  command (.getvlc2 t d b) (checkVlc t.toNat b.toNat) (vlcToRes t.toNat d.toNat) s

/-- The VLC read of blocks and macroblocks: `GETVLC2 D=1, B=13`; a table that is absent or of another width is
BAD_STATE, and -1 is BAD_SYMBOL (44_coeff_dequant.md, preamble). -/
def readVlc (tbl? : Option VlcTable) : M Nat :=
  need .badState tbl? >>= fun tbl =>
    raiseIf (decide (tbl.rootBits ≠ Config.vlcBits)) .badState >>= fun _ =>
      vlcSymbol tbl 1 >>= fun sym =>
        raiseIf (decide (sym < 0)) .badSymbol >>= fun _ => pure sym.toNat

/-- A table built into `table(48)`, or the error of its build. -/
def buildInto48 (r : Except VlcError VlcTable) (failed : State → State) : M Unit := fun s =>
  match r with
  | .ok t => .ok () { s with slot48 := some t }
  | .error e => .error e.kind (failed s)

/-- HUFFBUILD's effect (R171): on an error `table(48)` is left NONE. -/
def huffBuild48 (d : HuffDesc) : M Unit := fun s =>
  buildInto48 (huffBuild s.params d) (fun s => { s with slot48 := none }) s

/-- HUFFBUILD (R171). -/
def execHuffbuild (t : BitVec 6) (s : State) : Host.Outcome State Fault Refusal :=
  command (.huffbuild t) noCheck (huffBuild48 s.opr.desc) s

/-- A code of INITVLC's operand as stream bits: its `len` canonical bits, most significant first (R175; log 14). Of a value
with bits above its `len`, which R175 neither refuses nor explains, the `len` lowest bits count (DESIGN CHOICE, log 47). -/
def oprCode (c : OprCode) : VlcCode := ⟨msbFirst c.code.toNat c.len, c.sym⟩

/-- INITVLC's effect (R175): an error leaves `table(48)` as it was (log 14). -/
def initVlc48 (rootBits : Nat) (codes : List OprCode) : M Unit :=
  buildInto48 (initVlc rootBits (codes.map oprCode)) id

/-- INITVLC (R175). -/
def execInitvlc (t : BitVec 6) (s : State) : Host.Outcome State Fault Refusal :=
  command (.initvlc t) noCheck (initVlc48 s.opr.rootBits s.opr.codes) s

/-! ### Descriptor decode (R178) -/

/-- `W`: 0 macroblock tables, 1 block tables. -/
def kindOfW (w : BitVec 1) : VlcKind := if w = 0 then .mb else .blk

/-- `n` values of `k` bits. -/
def readValues (k : Nat) : Nat → M (List Nat)
  | 0 => pure []
  | n + 1 => readBits k >>= fun v => readValues k n >>= fun vs => pure (v :: vs)

/-- The register slot `t` names. -/
def getHuffReg (t : Nat) : M HuffTab := fun s => need .badState (s.huffReg? t) s

/-- Writes fields of the register slot `t` names. -/
def updHuffReg (t : Nat) (f : HuffTab → HuffTab) : M Unit :=
  getHuffReg t >>= fun h => update fun s => s.setHuffReg t (f h)

/-- A descriptor of `n` rows, 1 to 15, with the extra bits read; the rows beyond are 0 (log 23). -/
def readDesc (n : Nat) : M HuffDesc :=
  readValues 4 n >>= fun xs =>
    pure ⟨Fin.ofNat 17 n, Vector.ofFn fun i => BitVec.ofNat 4 (xs.getD i 0)⟩

/-- The custom branch of R178: a descriptor, built unless an equal one is built already (R180). -/
def decodeCustom (t : Nat) : M Unit :=
  readBits 4 >>= fun n => raiseIf (decide (n = 0)) .huffEmpty >>= fun _ =>
    readDesc n >>= fun new => getHuffReg t >>= fun h =>
      (if descSame new h.custDesc && h.custTab.isSome then done
       else
        updHuffReg t (fun h => { h with custDesc := new }) >>= fun _ =>
        onError (huffBuild48 new) (fun s =>
          match s.huffReg? t with
          | some h => s.setHuffReg t { h with custDesc := { h.custDesc with numRows := 0 }, custTab := none }
          | none => s) >>= fun _ =>
        look (fun s => s.slot48) >>= fun tab => updHuffReg t fun h => { h with custTab := tab }) >>= fun _ =>
      updHuffReg t fun h => { h with tab := .custom }

/-- DECHUFFDESC's pseudocode (R178) for register slot `t`, kind `kind` and descriptor-coded flag `coded`. -/
def decodeHuffDesc (t : Nat) (kind : VlcKind) (coded : Bool) : M Unit :=
  if coded then
    readField 3 >>= fun sel => updHuffReg t (fun h => { h with tabSel := sel }) >>= fun _ =>
      if sel = 7 then decodeCustom t
      else updHuffReg t fun h => { h with tab := .predef kind sel.toFin }
  else
    look (fun s => s.params.huffNotCoded) >>= fun policy =>
      match policy with
      | .reuse => done
      | .default7 => updHuffReg t fun h => { h with tab := .predef kind 7 }

/-- The head check of DECHUFFDESC: a coded descriptor needs a bitstream (R140). A slot `32 + 4p + b` of a band that does
not exist is BAD_STATE, coded or not: the model's choice, since no rule names an error for it (DESIGN CHOICE, log 41). -/
def checkHuffDesc (t : Nat) (coded : Bool) (s : State) : Option ErrKind :=
  orBadState ((s.huffReg? t).isSome && (!coded || s.bound))

/-- DECHUFFDESC (R178). -/
def execDechuffdesc (t : BitVec 6) (w : BitVec 1) (c : BitVec 1) (s : State) : Host.Outcome State Fault Refusal :=
  command (.dechuffdesc t w c) (checkHuffDesc t.toNat (decide (c = 1)))
    (decodeHuffDesc t.toNat (kindOfW w) (decide (c = 1))) s

end Sys2Proof.Machine
end

