-- ==== Sys2Proof/Machine/Header4.lean ====
section
/-! DEFINITION. The INDEO4 headers: the picture header (45_frame_engine.md R330 to R333) and the band header (R340 to
R343). -/

namespace Sys2Proof.Machine

/-- Raises BAD_HEADER when the next bit is 1. -/
def rejectFlag (e : ErrKind) : M Unit := readFlag >>= fun f => raiseIf f e

/-- `(Read(1) = 1) ? Read(n) : 0`. -/
def readOptional (n : Nat) : M Nat := readFlag >>= fun f => if f then readBits n else pure 0

/-! ### Picture header (R330) -/

/-- The size of the picture: an index of `P_STD_SIZES4`, or the escape 7 with the height first (R330;
30_encoding.md R123). -/
def readPicSize4 : M (BitVec 16 × BitVec 16) :=
  readBits 3 >>= fun idx =>
    if h : idx < 7 then look fun s => s.params.stdSizes4[idx]
    else readField 16 >>= fun height => readField 16 >>= fun width => pure (width, height)

/-- `TS` (R330, R333). -/
def tileScale (dim : BitVec 16) (f : Nat) : BitVec 16 := if f = 15 then dim else BitVec.ofNat 16 ((f + 1) * 32)

/-- The tile size, as (width, height): the picture's without tiling, else the height's code before the width's. -/
def readTileDims4 (pic : BitVec 16 × BitVec 16) : M (BitVec 16 × BitVec 16) :=
  readFlag >>= fun tiling => updHdr (fun h => { h with usesTiling := tiling }) >>= fun _ =>
    if tiling then
      readBits 4 >>= fun fh => readBits 4 >>= fun fw => pure (tileScale pic.1 fw, tileScale pic.2 fh)
    else pure pic

/-- The four codes of a plane split in four: 4 when each is 3, else 0 at the first that is not (R331). -/
def readQuad : Nat → M (BitVec 3)
  | 0 => pure 4
  | n + 1 => readBits 2 >>= fun v => if v = 3 then readQuad n else pure 0

/-- `SUBDIV()` (R331). -/
def readSubdiv : M (BitVec 3) :=
  readBits 2 >>= fun v => if v = 3 then pure 1 else if v = 2 then readQuad 4 else pure 0

/-- Several bands in a plane (R39). -/
def scalableConfig (lumaBands chromaBands : Nat) : Bool := decide (lumaBands ≠ 1 ∨ chromaBands ≠ 1)

/-- A scalable layout other than 4 luma bands and 1 chroma band (R330, R351). -/
def unsupportedLayout (lumaBands chromaBands : Nat) : Bool :=
  scalableConfig lumaBands chromaBands && decide (lumaBands ≠ 4 ∨ chromaBands ≠ 1)

/-- The candidate configuration of an INDEO4 picture header (R330). -/
def readConfig4 : M PicConf :=
  readPicSize4 >>= fun pic => readTileDims4 pic >>= fun tile =>
  readBits 2 >>= fun chroma => raiseIf (decide (chroma ≠ 0)) .unsupported >>= fun _ =>
  readSubdiv >>= fun luma => (if luma ≠ 0 then readSubdiv else pure 0) >>= fun chromaBands =>
  pure { picWidth := pic.1, picHeight := pic.2, chromaWidth := quarter pic.1, chromaHeight := quarter pic.2,
         tileWidth := tile.1, tileHeight := tile.2, lumaBands := luma, chromaBands := chromaBands }

/-- The default sizes of every band (R316). -/
def State.setDefaultSizes (s : State) : State :=
  { s with planes := s.planes.mapIdx fun p pl =>
      { pl with bands := pl.bands.map fun bd =>
          { bd with mbSize := mbSize4 s.hdr.isScalable p, blkSize := blkSize4 p } } }

/-- The configuration of an INDEO4 picture and the planes and tiles it asks for (R310, R315, R316, R330). -/
def configure4 : M Unit :=
  readConfig4 >>= fun cfg =>
  updHdr (fun h => { h with isScalable := scalableConfig cfg.lumaBands.toNat cfg.chromaBands.toNat }) >>= fun _ =>
  raiseIf (unsupportedLayout cfg.lumaBands.toNat cfg.chromaBands.toNat) .unsupported >>= fun _ =>
  look (fun s => differs cfg s.picConf) >>= fun diff => (if diff then reallocate cfg else done) >>= fun _ =>
  update State.setDefaultSizes >>= fun _ =>
  look (fun s => s.picConf) >>= fun pc => sub checkAllocated (initTiles pc.tileWidth.toNat pc.tileHeight.toNat)

/-- One byte of the header extension (R330). -/
def extensionByte4 : M Bool :=
  readFlag >>= fun more =>
    if more then
      look (fun s => decide ((s.br.sizeBits : Int) - s.br.index < 10)) >>= fun short => raiseIf short .badHeader >>= fun _ =>
        skipBits 8 >>= fun _ => pure true
    else pure false

/-- The picture-level run-value map selection. -/
def readRvmapSel4 : M (BitVec 4) :=
  readFlag >>= fun f => if f then readBits 3 >>= fun v => pure (BitVec.ofNat 4 v) else pure 8

/-- What follows the configuration in an INDEO4 picture header (R330). -/
def pictureFields4 : M Unit :=
  readOptional 20 >>= fun num => updHdr (fun h => { h with frameNum := BitVec.ofNat 20 num }) >>= fun _ =>
  readFlag >>= fun estimate => (if estimate then skipBits 8 else done) >>= fun _ =>
  readFlag >>= fun cMb => decodeHuffDesc 16 .mb cMb >>= fun _ =>
  readFlag >>= fun cBlk => decodeHuffDesc 17 .blk cBlk >>= fun _ =>
  readRvmapSel4 >>= fun sel => updHdr (fun h => { h with rvmapSel := sel }) >>= fun _ =>
  readFlag >>= fun imf => updHdr (fun h => { h with inImf := imf }) >>= fun _ =>
  readFlag >>= fun inq => updHdr (fun h => { h with inQ := inq }) >>= fun _ =>
  readField 5 >>= fun quant => updHdr (fun h => { h with picGlobQuant := quant }) >>= fun _ =>
  readOptional 3 >>= fun u => updHdr (fun h => { h with unknown1 := BitVec.ofNat 3 u }) >>= fun _ =>
  readOptional 16 >>= fun c => updHdr (fun h => { h with checksum := BitVec.ofNat 16 c }) >>= fun _ =>
  readLoop extensionByte4 >>= fun _ => readBits 1 >>= fun _ => alignBits

/-- `prev_frame_type <- frame_type; frame_type <- Read(3)` (10_state.md R35). -/
def readFrameType : M (BitVec 3) :=
  update (fun s => { s with prevFrameType := s.frameType }) >>= fun _ =>
  readField 3 >>= fun ft => update (fun s => { s with frameType := ft }) >>= fun _ => pure ft

/-- PICHDR under INDEO4 (R330). -/
def pictureHeader4 : M Unit :=
  readBits 18 >>= fun code => raiseIf (decide (code ≠ 0x3FFF8)) .badStartCode >>= fun _ =>
  readFrameType >>= fun ft => raiseIf (decide (ft = 7)) .badFrameType >>= fun _ =>
  (if ft = 3 then updHdr fun h => { h with hasBFrames := true } else done) >>= fun _ =>
  readFlag >>= fun transp => updHdr (fun h => { h with hasTransp := transp }) >>= fun _ =>
  rejectFlag .badHeader >>= fun _ =>
  readOptional 24 >>= fun size => updHdr (fun h => { h with dataSize := BitVec.ofNat 24 size }) >>= fun _ =>
  if 5 ≤ ft.toNat then done
  else
    readFlag >>= fun lock => (if lock then skipBits 32 else done) >>= fun _ =>
    configure4 >>= fun _ => pictureFields4

/-! ### Transform and quantiser selection (R341, R342; 30_encoding.md R126) -/

/-- The kernels of a transform id, where they are supported (R126). -/
def kernels4 : Nat → Option (InvTx × DcTx)
  | 0 => some (.haar8, .dchaar8)
  | 1 => some (.haarrow8, .dchaar8)
  | 2 => some (.haarcol8, .dchaar8)
  | 3 => some (.copy8, .dccopy8)
  | 4 => some (.slant8, .dcslant8)
  | 5 => some (.slantrow8, .dcrowslant8)
  | 6 => some (.slantcol8, .dccolslant8)
  | 10 => some (.haar4, .dchaar4)
  | 11 => some (.slant4, .dcslant4)
  | 13 => some (.haarrow4, .dchaar4)
  | 14 => some (.haarcol4, .dchaar4)
  | 15 => some (.slantrow4, .dcrowslant4)
  | 16 => some (.slantcol4, .dccolslant4)
  | _ => none

/-- The size of a transform id. -/
def txSize4 (id : Nat) : Nat := if id < 10 then 8 else 4

/-- `TXSEL4(id)` (R342). -/
def selectTransform4 (p b id : Nat) : M Unit :=
  need .unsupported (kernels4 id) >>= fun ks => getBand p b >>= fun bd =>
  raiseIf (decide (id < 10) && decide (bd.blkSize < 8)) .badHeader >>= fun _ =>
  (if id = 0 ∨ id = 1 ∨ id = 2 ∨ id = 10 then updHdr fun h => { h with usesHaar := true } else done) >>= fun _ =>
  look (fun s => s.params.is2d4[id]?.getD false) >>= fun is2d =>
  updBand p b (fun bd => { bd with invTransform := some ks.1, dcTransform := some ks.2, is2d := is2d,
                                   transformSize := txSize4 id }) >>= fun _ =>
  raiseIf (decide (txSize4 id ≠ bd.blkSize)) .badHeader

/-- The set of base tables a quantiser matrix selects; past the end of the index table, where R340 and R341 state no
value, 6, which names none (DESIGN CHOICE, log 22, log 45). -/
def quantTab4 (q : Quant4) (qm : BitVec 5) : Nat := (q.indexToTab[qm.toNat]?.map Fin.val).getD 6

/-- Table `t` of a family, with a free value at each place of a table the family lacks (log 22). -/
def tableOr {n k : Nat} (tables : Vector (Vector (BitVec 16) k) n) (free : Nat → BitVec 16) (t : Nat) :
    List (BitVec 16) :=
  match tables[t]? with
  | some table => table.toList
  | none => (List.range k).map free

/-- The base tables of QSEL4 (R341). -/
def bases4 (q : Quant4) (t blkSize : Nat) : List (BitVec 16) × List (BitVec 16) :=
  if blkSize = 8 then
    (tableOr q.intra8 (Config.quant4Beyond true t) t, tableOr q.inter8 (Config.quant4Beyond false t) t)
  else (tableOr q.intra4 (Config.quant4Beyond true t) t, tableOr q.inter4 (Config.quant4Beyond false t) t)

/-- QSEL4 (R341). -/
def selectQuant4 (p b : Nat) : M Unit :=
  look (fun s => s.params.quant4) >>= fun q =>
    updBand p b fun bd =>
      let bases := bases4 q (quantTab4 q bd.quantMat) bd.blkSize
      { bd with intraBase := some bases.1, interBase := some bases.2, intraScale := none, interScale := none }

/-! ### Band header (R340) -/

/-- The transform, scan and quantiser selection of a band header (R340). -/
def bandSelection4 (p b : Nat) : M Unit :=
  readBits 5 >>= fun id => selectTransform4 p b id >>= fun _ =>
  readBits 4 >>= fun sc => getBand p b >>= fun bd =>
  raiseIf (decide (sc = 15)) .badHeader >>= fun _ =>
  raiseIf (if 5 ≤ sc ∧ sc ≤ 9 then decide (bd.blkSize ≠ 4) else decide (bd.blkSize ≠ 8)) .badHeader >>= fun _ =>
  look (fun s => s.params.scans4[sc]?) >>= fun scan =>
  updBand p b (fun bd => { bd with scan := scan, scanSize := bd.blkSize }) >>= fun _ =>
  readField 5 >>= fun qm => look (fun s => s.params.quant4.indexToTab.length) >>= fun len =>
  raiseIf (decide (qm = 31) || decide (len ≤ qm.toNat)) .badHeader >>= fun _ =>
  updBand p b fun bd => { bd with quantMat := qm }

/-- `band.corr[i] <- Read(8)` from index `i` on, for `n` entries. -/
def readCorr (p b : Nat) : Nat → Nat → M Unit
  | _, 0 => done
  | i, n + 1 => readField 8 >>= fun v =>
      updBand p b (fun bd => { bd with corr := bd.corr.set i v }) >>= fun _ => readCorr p b (i + 1) n

/-- The correction pairs of a band header (R340, R353). -/
def readCorrections (p b : Nat) : M Unit :=
  readBits 8 >>= fun n => updBand p b (fun bd => { bd with numCorr := n }) >>= fun _ =>
  look (fun s => s.params.maxNumCorr) >>= fun most => raiseIf (decide (most < n)) .badHeader >>= fun _ =>
  readCorr p b 0 (2 * n)

/-- `(Read(1) = 1) ? Read(3) : 8` as a run-value map index, where `coded` is that bit. -/
def readBandRvmap (coded : Bool) : M (Fin 9) :=
  if coded then readBits 3 >>= fun v => pure (Fin.ofNat 9 v) else pure 8

/-- `band.checksum_present <- Read(1); if so band.checksum <- Read(16)`. -/
def readBandChecksum (p b : Nat) : M Unit :=
  readFlag >>= fun f => updBand p b (fun bd => { bd with checksumPresent := f }) >>= fun _ =>
    if f then readField 16 >>= fun v => updBand p b fun bd => { bd with checksum := v } else done

/-- The checks that follow the selection (R340). An entry past the end of the index table counts as greater than 4, so a
4x4 band that keeps such a matrix is refused (DESIGN CHOICE, log 45). -/
def checkSelection4 (p b : Nat) : M Unit :=
  getBand p b >>= fun bd => look (fun s => quantTab4 s.params.quant4 bd.quantMat) >>= fun t =>
  (if 4 < t ∧ bd.blkSize = 4 then
    updBand p b (fun bd => { bd with quantMat := 0 }) >>= fun _ => raise .badHeader
   else done) >>= fun _ =>
  raiseIf (decide (bd.scanSize ≠ bd.blkSize)) .badHeader >>= fun _ =>
  raiseIf (decide (bd.transformSize = 8) && decide (bd.blkSize < 8)) .badHeader

/-- The fields of a band that is not empty (R340). -/
def bandFields4 (p b : Nat) : M Unit :=
  getBand p b >>= fun old =>
  readFlag >>= fun sized => (if sized then skipBits 16 else done) >>= fun _ =>
  readBits 2 >>= fun hp => raiseIf (decide (2 ≤ hp)) .badHeader >>= fun _ =>
  updBand p b (fun bd => { bd with isHalfpel := decide (hp = 1) }) >>= fun _ =>
  (if hp = 0 then updHdr fun h => { h with usesFullpel := true } else done) >>= fun _ =>
  readBandChecksum p b >>= fun _ =>
  readBits 2 >>= fun indx => raiseIf (decide (indx = 3)) .badHeader >>= fun _ =>
  updBand p b (fun bd => { bd with mbSize := 16 / 2 ^ indx, blkSize := 8 / 2 ^ (indx / 2) }) >>= fun _ =>
  readFlag >>= fun im => updBand p b (fun bd => { bd with inheritMv := im }) >>= fun _ =>
  readFlag >>= fun iq => updBand p b (fun bd => { bd with inheritQdelta := iq }) >>= fun _ =>
  readField 5 >>= fun gq => updBand p b (fun bd => { bd with globQuant := gq }) >>= fun _ =>
  readFlag >>= fun keep => look (fun s => decide (s.frameType = 0)) >>= fun intra =>
  getBand p b >>= fun bd =>
  (if !keep || intra then bandSelection4 p b
   else raiseIf (decide (old.blkSize ≠ bd.blkSize)) .badHeader) >>= fun _ =>
  checkSelection4 p b >>= fun _ =>
  readFlag >>= fun own =>
  (if own then decodeHuffDesc (32 + 4 * p + b) .blk true
   else updBand p b fun bd => { bd with blkVlc := { bd.blkVlc with tab := .pic } }) >>= fun _ =>
  readFlag >>= fun coded => readBandRvmap coded >>= fun sel =>
  updBand p b (fun bd => { bd with rvmapSel := sel, numCorr := 0 }) >>= fun _ =>
  readFlag >>= fun corr => if corr then readCorrections p b else done

/-- BANDHDR under INDEO4 (R340). -/
def bandHeader4 (p b : Nat) : M Unit :=
  readBits 2 >>= fun vp => raiseIf (decide (vp ≠ p)) .badHeader >>= fun _ =>
  readBits 4 >>= fun vb => raiseIf (decide (vb ≠ b)) .badHeader >>= fun _ =>
  readFlag >>= fun empty => updBand p b (fun bd => { bd with isEmpty := empty }) >>= fun _ =>
  (if empty then done else bandFields4 p b) >>= fun _ =>
  selectQuant4 p b >>= fun _ => alignBits >>= fun _ =>
  getBand p b >>= fun bd => raiseIf bd.scan.isNone .badHeader

end Sys2Proof.Machine
end

