-- ==== Sys2Proof/Machine/Header5.lean ====
section
/-! DEFINITION. The INDEO5 headers: the picture header (45_frame_engine.md R350), the GOP header (R351, R352), the band
header (R353), the selections (R354, R355) and the extension skip (R356). -/

namespace Sys2Proof.Machine

/-- One turn of SKIPEXT (R356): true when it goes on. -/
def extensionBlock5 : M Bool :=
  readBits 8 >>= fun len =>
  look (fun s => decide (((8 * len : Nat) : Int) > (s.br.sizeBits : Int) - s.br.index)) >>= fun past =>
    if past then pure false else skipBits (8 * len) >>= fun _ => pure (decide (len ≠ 0))

/-- SKIPEXT (R356). -/
def skipExtension5 : M Unit := readLoop extensionBlock5

/-! ### Selections (R354, R355) -/

/-- TXSEL5's row `k` (R355): kernels, `is_2d_trans`, transform size. -/
def kernels5 : Nat → Option (InvTx × DcTx × Bool × Nat)
  | 0 => some (.slant8, .dcslant8, true, 8)
  | 1 => some (.slantrow8, .dcrowslant8, false, 8)
  | 2 => some (.slantcol8, .dccolslant8, false, 8)
  | 3 => some (.copy8, .dccopy8, false, 8)
  | 4 => some (.slant4, .dcslant4, true, 4)
  | _ => none

/-- `TXSEL5(k)` (R355), for `k` in 0..4, the only values it takes. -/
def selectTransform5 (p b : Nat) : M Unit :=
  let k := p * 4 + b
  need .badState (kernels5 k) >>= fun ks => look (fun s => s.params.scans5[k]?) >>= fun scan =>
  updBand p b (fun bd => { bd with invTransform := some ks.1, dcTransform := some ks.2.1, is2d := ks.2.2.1,
                                   transformSize := ks.2.2.2, scan := scan, scanSize := ks.2.2.2 }) >>= fun _ =>
  getBand p b >>= fun bd => raiseIf (decide (bd.transformSize ≠ bd.blkSize)) .badHeader

/-- `qm` of QSEL5 (R354). -/
def quantIndex5 (lumaBands p b : Nat) : Nat := if p = 0 then if 1 < lumaBands then b + 1 else 0 else 5

/-- The tables QSEL5 gives a band (R354). -/
def setQuant5 (q : Quant5) (qm : Nat) (bd : Band) : Band :=
  if bd.blkSize = 8 then
    { bd with
      intraBase := (q.base8Intra[qm]?).map Vector.toList
      interBase := (q.base8Inter[qm]?).map Vector.toList
      intraScale := (q.scale8Intra[qm]?).map Vector.toList
      interScale := (q.scale8Inter[qm]?).map Vector.toList
      quantMat := BitVec.ofNat 5 qm }
  else
    { bd with
      intraBase := some q.base4Intra.toList
      interBase := some q.base4Inter.toList
      intraScale := some q.scale4Intra.toList
      interScale := some q.scale4Inter.toList
      quantMat := BitVec.ofNat 5 qm }

/-- `QSEL5(p, i)` (R354). -/
def selectQuant5 (p b : Nat) : M Unit :=
  look (fun s => quantIndex5 s.picConf.lumaBands.toNat p b) >>= fun qm => getBand p b >>= fun bd =>
  raiseIf (decide (bd.blkSize = 8) && decide (5 ≤ qm)) .badHeader >>= fun _ =>
  look (fun s => s.params.quant5) >>= fun q => updBand p b (setQuant5 q qm)

/-! ### GOP header (R351, R352) -/

/-- One band of GOPBANDS (R352); the result is `changed`. A band that `pic_conf` names and the planes lack raises BAD_STATE
before its first bit is read (DESIGN CHOICE, log 49). -/
def gopBand (p b : Nat) : M Bool :=
  getBand p b >>= fun _ =>
  readFlag >>= fun hp => updBand p b (fun bd => { bd with isHalfpel := hp }) >>= fun _ =>
  readFlag >>= fun mbf => readBits 1 >>= fun sh =>
  let blk := 8 / 2 ^ sh
  let mb := if mbf then blk else blk * 2
  raiseIf (decide (p = 0) && decide (blk = 4)) .unsupported >>= fun _ =>
  getBand p b >>= fun bd =>
  let changed := decide (mb ≠ bd.mbSize ∨ blk ≠ bd.blkSize)
  (if changed then updBand p b fun bd => { bd with mbSize := mb, blkSize := blk } else done) >>= fun _ =>
  rejectFlag .unsupported >>= fun _ =>
  selectTransform5 p b >>= fun _ => selectQuant5 p b >>= fun _ =>
  readBits 2 >>= fun mark => raiseIf (decide (mark ≠ 0)) .badHeader >>= fun _ => pure changed

/-- The bands of GOPBANDS in order: `changed` is that of the last one (R352). -/
def gopBandList : List (Nat × Nat) → Bool → M Bool
  | [], changed => pure changed
  | (p, b) :: rest, _ => gopBand p b >>= fun changed => gopBandList rest changed

/-- Gives a band of plane 2 the fields of the band of plane 1 (R352). -/
def copyGopFields (src dst : Band) : Band :=
  { dst with width := src.width, height := src.height, mbSize := src.mbSize, blkSize := src.blkSize,
             isHalfpel := src.isHalfpel, intraBase := src.intraBase, interBase := src.interBase,
             intraScale := src.intraScale, interScale := src.interScale, scan := src.scan,
             invTransform := src.invTransform, dcTransform := src.dcTransform, is2d := src.is2d,
             transformSize := src.transformSize }

/-- Plane 2 copies band `b` of plane 1. -/
def copyChroma (b : Nat) : M Unit := getBand 1 b >>= fun src => updBand 2 b (copyGopFields src)

/-- GOPBANDS (R352); the result is `changed`. -/
def gopBands (changed : Bool) : M Bool :=
  look (fun s => (s.picConf.lumaBands.toNat, s.picConf.chromaBands.toNat)) >>= fun n =>
  gopBandList ((List.range n.1).map (fun b => (0, b)) ++ (List.range n.2).map (fun b => (1, b))) changed >>= fun c =>
  forEach copyChroma (List.range n.2) >>= fun _ => pure c

/-- The size of the picture, as (width, height): an index of `P_STD_SIZES5` shifted by 2, or the escape 15 with the
height first (R351). The store of `w << 2` and `h << 2` into the 16-bit unsigned cells of R38, for which R12 and R13 give
no conversion, drops the bits above bit 15 (DESIGN CHOICE, log 52). -/
def readPicSize5 : M (BitVec 16 × BitVec 16) :=
  readBits 4 >>= fun idx =>
    if h : idx < 15 then
      look fun s => ((s.params.stdSizes5[idx]).1 <<< 2, (s.params.stdSizes5[idx]).2 <<< 2)
    else readField 13 >>= fun height => readField 13 >>= fun width => pure (width.setWidth 16, height.setWidth 16)

/-- The tile size of a GOP header, 0 for the picture's (R351). -/
def readTileDim5 (flags : BitVec 8) : M Nat :=
  (if flags.getLsbD 6 then readBits 2 >>= fun v => pure (64 * 2 ^ v) else pure 0) >>= fun tile =>
    raiseIf (decide (256 < tile)) .badHeader >>= fun _ => pure tile

/-- The candidate configuration of a GOP header (R351). -/
def readConfig5 (flags : BitVec 8) : M PicConf :=
  readTileDim5 flags >>= fun tile =>
  readBits 2 >>= fun l => readBits 1 >>= fun c =>
  let luma := l * 3 + 1
  let chroma := c * 3 + 1
  raiseIf (unsupportedLayout luma chroma) .unsupported >>= fun _ =>
  readPicSize5 >>= fun pic =>
  raiseIf (flags.getLsbD 1) .unsupported >>= fun _ =>
  pure { picWidth := pic.1, picHeight := pic.2, chromaWidth := quarter pic.1, chromaHeight := quarter pic.2,
         tileWidth := if tile = 0 then pic.1 else BitVec.ofNat 16 tile
         tileHeight := if tile = 0 then pic.2 else BitVec.ofNat 16 tile
         lumaBands := BitVec.ofNat 3 luma, chromaBands := BitVec.ofNat 3 chroma }

/-- Reallocation by a GOP header; the result is `changed` (R351). -/
def configure5 (cfg : PicConf) : M Bool :=
  look (fun s => differs cfg s.picConf || s.hdr.gopInvalid) >>= fun diff =>
    if diff then
      reallocate cfg >>= fun _ =>
      updHdr (fun h => { h with isScalable := scalableConfig cfg.lumaBands.toNat cfg.chromaBands.toNat }) >>= fun _ =>
      pure true
    else pure false

/-- One word of the GOP extension: true while bit 15 is 1 (R351). -/
def gopExtensionWord : M Bool := readBits 16 >>= fun v => pure (v.testBit 15)

/-- The end of a GOP header (R351). -/
def gopTail (flags : BitVec 8) : M Unit :=
  (if flags.getLsbD 3 then
    readBits 3 >>= fun v => raiseIf (decide (v ≠ 0)) .badHeader >>= fun _ =>
      readFlag >>= fun fill => if fill then skipBits 24 else done
   else done) >>= fun _ =>
  alignBits >>= fun _ => skipBits 23 >>= fun _ =>
  readFlag >>= fun ext => (if ext then readLoop gopExtensionWord else done) >>= fun _ => alignBits

/-- The fields at the head of a GOP header (R351). -/
def gopFields : M (BitVec 8) :=
  readField 8 >>= fun flags => updHdr (fun h => { h with gopFlags := flags }) >>= fun _ =>
  (if flags.getLsbD 0 then readBits 16 else pure 0) >>= fun size =>
  updHdr (fun h => { h with gopHdrSize := BitVec.ofNat 16 size }) >>= fun _ =>
  (if flags.getLsbD 5 then readField 32 >>= fun w => updHdr fun h => { h with lockWord := w } else done) >>= fun _ =>
  pure flags

/-- GOPHDR's pseudocode (R351). -/
def gopHeader : M Unit :=
  gopFields >>= fun flags => readConfig5 flags >>= fun cfg => configure5 cfg >>= fun changed =>
  gopBands changed >>= fun changed' =>
  (if changed' then
    look (fun s => s.picConf) >>= fun pc => sub checkAllocated (initTiles pc.tileWidth.toNat pc.tileHeight.toNat)
   else done) >>= fun _ =>
  gopTail flags

/-! ### Picture header (R350) -/

/-- GOPHDR as PICHDR runs it (R350): an error sets `gop_invalid`, success clears it. -/
def pictureGop5 : M Unit :=
  onError gopHeader (fun s => { s with hdr := { s.hdr with gopInvalid := true } }) >>= fun _ =>
    updHdr fun h => { h with gopInvalid := false }

/-- What follows the frame number in an INDEO5 picture header that is not null (R350). -/
def pictureFields5 : M Unit :=
  readField 8 >>= fun flags => updHdr (fun h => { h with frameFlags := flags }) >>= fun _ =>
  (if flags.getLsbD 0 then readBits 24 else pure 0) >>= fun size =>
  updHdr (fun h => { h with picHdrSize := BitVec.ofNat 24 size }) >>= fun _ =>
  (if flags.getLsbD 4 then readBits 16 else pure 0) >>= fun sum =>
  updHdr (fun h => { h with checksum := BitVec.ofNat 16 sum }) >>= fun _ =>
  (if flags.getLsbD 5 then skipExtension5 else done) >>= fun _ =>
  decodeHuffDesc 16 .mb (flags.getLsbD 6) >>= fun _ => skipBits 3

/-- PICHDR under INDEO5 (R350). -/
def pictureHeader5 : M Unit :=
  readBits 5 >>= fun code => raiseIf (decide (code ≠ 0x1F)) .badStartCode >>= fun _ =>
  readFrameType >>= fun ft =>
  (if 5 ≤ ft.toNat then
    update (fun s => { s with frameType := 0 }) >>= fun _ => raise .badFrameType
   else done) >>= fun _ =>
  readBits 8 >>= fun num => updHdr (fun h => { h with frameNum := BitVec.ofNat 20 num }) >>= fun _ =>
  (if ft = 0 then pictureGop5 else done) >>= fun _ =>
  look (fun s => s.hdr.isScalable) >>= fun scalable =>
  (if ft = 2 ∧ scalable = false then
    update (fun s => { s with frameType := 1 }) >>= fun _ => raise .badHeader
   else done) >>= fun _ =>
  (if ft = 4 then done else pictureFields5) >>= fun _ => alignBits

/-! ### Band header (R353) -/

/-- The fields of a band that is not empty (R353). Its data size is not compared with the chunk: 60_exceptions.md R401
names that as a cause of BAD_HEADER, but no rule's pseudocode raises it (DESIGN CHOICE, log 46). -/
def bandFields5 (p b : Nat) (f : BitVec 8) : M Unit :=
  look (fun s => s.hdr.frameFlags.getLsbD 7) >>= fun sized =>
  (if sized then readBits 24 else pure 0) >>= fun size =>
  updBand p b (fun bd =>
    { bd with dataSize := BitVec.ofNat 24 size, inheritMv := f.getLsbD 1,
              inheritQdelta := f.getLsbD 3 || !f.getLsbD 2, qdeltaPresent := f.getLsbD 2, numCorr := 0 }) >>= fun _ =>
  (if f.getLsbD 4 then readCorrections p b else done) >>= fun _ =>
  readBandRvmap (f.getLsbD 6) >>= fun sel => updBand p b (fun bd => { bd with rvmapSel := sel }) >>= fun _ =>
  decodeHuffDesc (32 + 4 * p + b) .blk (f.getLsbD 7) >>= fun _ =>
  readBandChecksum p b >>= fun _ =>
  readField 5 >>= fun gq => updBand p b (fun bd => { bd with globQuant := gq }) >>= fun _ =>
  (if f.getLsbD 5 then alignBits >>= fun _ => skipExtension5 else done) >>= fun _ => alignBits

/-- BANDHDR under INDEO5 (R353). -/
def bandHeader5 (p b : Nat) : M Unit :=
  readField 8 >>= fun f => updBand p b (fun bd => { bd with isEmpty := f.getLsbD 0 }) >>= fun _ =>
    if f.getLsbD 0 then done else bandFields5 p b f

/-! ### The header commands -/

/-- PICHDR's pseudocode (R330, R350). -/
def pictureHeader : M Unit :=
  look (fun s => s.params.codec) >>= fun codec =>
    match codec with
    | .indeo4 => pictureHeader4
    | .indeo5 => pictureHeader5

/-- BANDHDR's pseudocode (R340, R353). -/
def bandHeader (p b : Nat) : M Unit :=
  look (fun s => s.params.codec) >>= fun codec =>
    match codec with
    | .indeo4 => bandHeader4 p b
    | .indeo5 => bandHeader5 p b

/-- The head check of BANDHDR: the band and a bitstream (R108, R140). -/
def checkBandStream (p b : Nat) (s : State) : Option ErrKind := orBadState (s.hasBand p b && s.bound)

/-- PICHDR (R330, R350). -/
def execPichdr (s : State) : Host.Outcome State Fault Refusal := command .pichdr needStream pictureHeader s

/-- GOPHDR (R351). -/
def execGophdr (s : State) : Host.Outcome State Fault Refusal := command .gophdr needStream gopHeader s

/-- BANDHDR (R340, R353). -/
def execBandhdr (p b : BitVec 2) (s : State) : Host.Outcome State Fault Refusal :=
  command (.bandhdr p b) (checkBandStream p.toNat b.toNat) (bandHeader p.toNat b.toNat) s

end Sys2Proof.Machine
end

