-- ==== Sys2Proof/Machine/Kernels.lean ====
section
/-! DEFINITION. The transform kernels as functions of their inputs (42_transforms.md R201 to R237): the Haar and Slant
butterflies, the passes over columns and rows, the DC forms, and the kernels another `P_KERNELS` puts in their place. A
kernel computes on `T32` values, which carry whether the arithmetic has stayed in 32 bits (R204). -/

namespace Sys2Proof.Machine

/-! ### 32-bit intermediates (R204) -/

/-- An intermediate value and whether it and all that led to it stayed in [-2^31, 2^31-1]. -/
structure T32 where
  val : Int
  ok : Bool
  deriving DecidableEq, Repr

/-- The value fits in 32 bits. -/
def fits32 (v : Int) : Bool := decide (-2 ^ 31 ≤ v ∧ v ≤ 2 ^ 31 - 1)

/-- A coefficient or a constant. -/
def tc (v : Int) : T32 := ⟨v, true⟩

/-- The result of one operation. -/
def tres (v : Int) (ok : Bool) : T32 := ⟨v, ok && fits32 v⟩

/-- `a + b`. -/
def tadd (a b : T32) : T32 := tres (a.val + b.val) (a.ok && b.ok)

/-- `a - b`. -/
def tsub (a b : T32) : T32 := tres (a.val - b.val) (a.ok && b.ok)

/-- `k * a`. -/
def tmul (k : Int) (a : T32) : T32 := tres (k * a.val) a.ok

/-- `a >> k`. -/
def tshr (a : T32) (k : Nat) : T32 := tres (asr a.val k) a.ok

/-! ### Haar (R202) -/

/-- `HBF`. -/
def hbf (a b : T32) : T32 × T32 := (tshr (tadd a b) 1, tshr (tsub a b) 1)

/-- `IHAAR8`; another number of inputs has no use. -/
def ihaar8 : List T32 → List T32
  | [x0, x1, x2, x3, x4, x5, x6, x7] =>
    let (t1, t5) := hbf (tmul 2 x0) (tmul 2 x1)
    let (t1, t3) := hbf t1 x2
    let (t5, t7) := hbf t5 x3
    let (t1, t2) := hbf t1 x4
    let (t3, t4) := hbf t3 x5
    let (t5, t6) := hbf t5 x6
    let (t7, t8) := hbf t7 x7
    [t1, t2, t3, t4, t5, t6, t7, t8]
  | _ => []

/-- `IHAAR4`. -/
def ihaar4 : List T32 → List T32
  | [x0, x1, x2, x3] =>
    let (a, b) := hbf x0 x1
    let (d1, d2) := hbf a x2
    let (d3, d4) := hbf b x3
    [d1, d2, d3, d4]
  | _ => []

/-! ### Slant (R203) -/

/-- `SBF`. -/
def sbf (a b : T32) : T32 × T32 := (tadd a b, tsub a b)

/-- `IREFL`: `((b + 2a + 2) >> 2) + a` and `((a - 2b + 2) >> 2) - b`. -/
def irefl (a b : T32) : T32 × T32 :=
  (tadd (tshr (tadd (tadd b (tmul 2 a)) (tc 2)) 2) a, tsub (tshr (tadd (tsub a (tmul 2 b)) (tc 2)) 2) b)

/-- `PART4`: `b + ((4a - b + 4) >> 3)` and `a + ((-a - 4b + 4) >> 3)`. -/
def part4 (a b : T32) : T32 × T32 :=
  (tadd b (tshr (tadd (tsub (tmul 4 a) b) (tc 4)) 3), tadd a (tshr (tadd (tsub (tmul (-1) a) (tmul 4 b)) (tc 4)) 3))

/-- `ISLANT8`. -/
def islant8 : List T32 → List T32
  | [x0, x1, x2, x3, x4, x5, x6, x7] =>
    let (t4, t5) := part4 x1 x3
    let (t1, t5) := sbf x0 t5
    let (t2, t6) := sbf x4 x5
    let (t7, t3) := sbf x7 x6
    let (t4, t8) := sbf t4 x2
    let (t1, t2) := sbf t1 t2
    let (t4, t3) := irefl t4 t3
    let (t5, t6) := sbf t5 t6
    let (t8, t7) := irefl t8 t7
    let (t1, t4) := sbf t1 t4
    let (t2, t3) := sbf t2 t3
    let (t5, t8) := sbf t5 t8
    let (t6, t7) := sbf t6 t7
    [t1, t2, t3, t4, t5, t6, t7, t8]
  | _ => []

/-- `ISLANT4`. -/
def islant4 : List T32 → List T32
  | [x0, x1, x2, x3] =>
    let (t1, t2) := sbf x0 x2
    let (t4, t3) := irefl x1 x3
    let (t1, t4) := sbf t1 t4
    let (t2, t3) := sbf t2 t3
    [t1, t2, t3, t4]
  | _ => []

/-- `RND` (R204). -/
def rnd (v : T32) : T32 := tshr (tadd v (tc 1)) 1

/-! ### Passes (R201) -/

/-- `n` zeros. -/
def zeros (n : Nat) : List T32 := List.replicate n (tc 0)

/-- Entry `(r, c)` of a list of lines, by rows. -/
def at2 (lines : List (List T32)) (r c : Nat) : T32 := (lines.getD r []).getD c (tc 0)

/-- Column `c` of the input, of `n` rows with stride `n`. -/
def inColumn (n : Nat) (inp : Vector Coef 64) (c : Nat) : List T32 :=
  (List.range n).map fun r => tc ((inp[n * r + c]?.getD 0).toInt)

/-- Row `r` of the input. -/
def inRow (n : Nat) (inp : Vector Coef 64) (r : Nat) : List T32 :=
  (List.range n).map fun c => tc ((inp[n * r + c]?.getD 0).toInt)

/-- The flag of column `c`. -/
def flagOf (flags : Vector Bool 8) (c : Nat) : Bool := flags[c]?.getD false

/-- A column pass: the transformed columns, zeros where the flag is 0. -/
def columnPass (n : Nat) (tr : List T32 → List T32) (pre : Nat → List T32 → List T32) (inp : Vector Coef 64)
    (flags : Vector Bool 8) : List (List T32) :=
  (List.range n).map fun c => if flagOf flags c then tr (pre c (inColumn n inp c)) else zeros n

/-- The rows of a list of columns. -/
def rowsOf (n : Nat) (cols : List (List T32)) : List (List T32) :=
  (List.range n).map fun r => (List.range n).map fun c => at2 cols c r

/-- One row of a row pass: zeros where its inputs are all zero (an input that left 32 bits on the way to 0 still
counts, R204). -/
def rowLine (tr : List T32 → List T32) (post : T32 → T32) (row : List T32) : List T32 :=
  if row.all fun v => decide (v.val = 0) then row.map fun v => ⟨0, v.ok⟩ else (tr row).map post

/-- The first half of the first half of the columns doubled: the pre-scale of HAAR8 and HAAR4 (R210, R217). -/
def haarScale (n : Nat) (c : Nat) (col : List T32) : List T32 :=
  if c < n / 2 then (col.take (n / 2)).map (tmul 2) ++ col.drop (n / 2) else col

/-- No pre-scale. -/
def noScale (_ : Nat) (col : List T32) : List T32 := col

/-- One output sample of a kernel: row, column, value. -/
abbrev KernelOut := List (Nat × Nat × T32)

/-- Samples listed row by row. -/
def byRows (n : Nat) (rows : List (List T32)) : KernelOut :=
  (List.range n).flatMap fun r => (List.range n).map fun c => (r, c, at2 rows r c)

/-- Samples listed column by column. -/
def byColumns (n : Nat) (cols : List (List T32)) : KernelOut :=
  (List.range n).flatMap fun c => (List.range n).map fun r => (r, c, at2 cols c r)

/-- A full kernel: columns, then rows. -/
def kernel2D (n : Nat) (tr : List T32 → List T32) (pre : Nat → List T32 → List T32) (post : T32 → T32)
    (inp : Vector Coef 64) (flags : Vector Bool 8) : KernelOut :=
  byRows n ((rowsOf n (columnPass n tr pre inp flags)).map (rowLine tr post))

/-- A row-only kernel. -/
def kernelRow (n : Nat) (tr : List T32 → List T32) (post : T32 → T32) (inp : Vector Coef 64) : KernelOut :=
  byRows n ((List.range n).map fun r => rowLine tr post (inRow n inp r))

/-- A column-only kernel. -/
def kernelColumn (n : Nat) (tr : List T32 → List T32) (post : T32 → T32) (inp : Vector Coef 64)
    (flags : Vector Bool 8) : KernelOut :=
  byColumns n ((List.range n).map fun c => if flagOf flags c then (tr (inColumn n inp c)).map post else zeros n)

/-! ### The kernels by name -/

/-- The block size of an inverse transform. -/
def InvTx.size : InvTx → Nat
  | .haar8 | .haarrow8 | .haarcol8 | .slant8 | .slantrow8 | .slantcol8 | .copy8 => 8
  | .haar4 | .haarrow4 | .haarcol4 | .slant4 | .slantrow4 | .slantcol4 => 4

/-- The output samples of a default inverse transform, in the order they are written (R210 to R222). -/
def standardKernel (tx : InvTx) (inp : Vector Coef 64) (flags : Vector Bool 8) : KernelOut :=
  match tx with
  | .haar8 => kernel2D 8 ihaar8 (haarScale 8) id inp flags
  | .haarrow8 => kernelRow 8 ihaar8 id inp
  | .haarcol8 => kernelColumn 8 ihaar8 id inp flags
  | .slant8 => kernel2D 8 islant8 noScale rnd inp flags
  | .slantrow8 => kernelRow 8 islant8 rnd inp
  | .slantcol8 => kernelColumn 8 islant8 rnd inp flags
  | .copy8 => byRows 8 ((List.range 8).map (inRow 8 inp))
  | .haar4 => kernel2D 4 ihaar4 (haarScale 4) id inp flags
  | .haarrow4 => kernelRow 4 ihaar4 id inp
  | .haarcol4 => kernelColumn 4 ihaar4 id inp flags
  | .slant4 => kernel2D 4 islant4 noScale rnd inp flags
  | .slantrow4 => kernelRow 4 islant4 rnd inp
  | .slantcol4 => kernelColumn 4 islant4 rnd inp flags

/-- The block size of a DC transform (R230). -/
def DcTx.size : DcTx → Nat
  | .dchaar8 | .dcslant8 | .dcrowslant8 | .dccolslant8 | .dccopy8 => 8
  | .dchaar4 | .dcslant4 | .dcrowslant4 | .dccolslant4 => 4

/-- Where a DC transform puts its value; the other samples are 0 (R231 to R237). -/
def DcTx.covers : DcTx → Nat → Nat → Bool
  | .dchaar8, _, _ | .dchaar4, _, _ | .dcslant8, _, _ | .dcslant4, _, _ => true
  | .dcrowslant8, r, _ | .dcrowslant4, r, _ => decide (r = 0)
  | .dccolslant8, _, c | .dccolslant4, _, c => decide (c = 0)
  | .dccopy8, r, c => decide (r = 0 ∧ c = 0)

/-- The value of a DC transform (R231 to R237). -/
def DcTx.value (tx : DcTx) (dc : Coef) : T32 :=
  match tx with
  | .dchaar8 | .dchaar4 => tshr (tc dc.toInt) 3
  | .dcslant8 | .dcslant4 | .dcrowslant8 | .dcrowslant4 | .dccolslant8 | .dccolslant4 => rnd (tc dc.toInt)
  | .dccopy8 => tc dc.toInt

/-- Entry `(r, c)` of a DC transform's output (R231 to R237). -/
def dcEntry (tx : DcTx) (dc : Coef) (r c : Nat) : T32 := if tx.covers r c then tx.value dc else tc 0

/-- The entries of a DC transform's column `c`, row by row. -/
def dcColumn (tx : DcTx) (dc : Coef) (c : Nat) : List T32 := (List.range tx.size).map fun r => dcEntry tx dc r c

/-- The entries of a DC transform's row `r`. -/
def dcRow (tx : DcTx) (dc : Coef) (r : Nat) : List T32 := (List.range tx.size).map fun c => dcEntry tx dc r c

/-- The output samples of a DC transform, in the order they are written: the column forms fill column 0 before the
columns of zeros (R236), the others go row by row. -/
def dcKernel (tx : DcTx) (dc : Coef) : KernelOut :=
  match tx with
  | .dccolslant8 | .dccolslant4 => byColumns tx.size ((List.range tx.size).map (dcColumn tx dc))
  | _ => byRows tx.size ((List.range tx.size).map (dcRow tx dc))

/-! ### Other kernels (`P_KERNELS`; 92_eei_decisions.md D14) -/

/-- The DC form of a 2D transform, which R240 makes it agree with on a DC-only input. -/
def InvTx.dcForm : InvTx → Option DcTx
  | .haar8 => some .dchaar8
  | .haar4 => some .dchaar4
  | .slant8 => some .dcslant8
  | .slant4 => some .dcslant4
  | _ => none

/-- An input R240 speaks of: a DC value below 2^28, zeros, and the flag of column 0 alone. -/
def dcInput (n : Nat) (inp : Vector Coef 64) (flags : Vector Bool 8) : Bool :=
  (inp.toList.take (n * n)).tail.all (fun v => decide (v = 0))
    && decide (flags.toList.take n = true :: List.replicate (n - 1) false)
    && decide (-2 ^ 28 < inp[0].toInt ∧ inp[0].toInt < 2 ^ 28)

/-- The samples of value `k` of the family of other kernels, in the order of the default: free, for the inputs the
command reads (R200, R238; log 6). -/
def freeKernel (k : Nat) (tx : InvTx) (inp : Vector Coef 64) (flags : Vector Bool 8) : KernelOut :=
  (standardKernel tx inp flags).map fun e =>
    (e.1, e.2.1, tc (Config.otherKernel k tx (inp.toList.take (tx.size * tx.size)) (flags.toList.take tx.size)
      e.1 e.2.1).toInt)

/-- Another kernel. The source's laws hold of it too (D14): R240 on a DC-only input of a 2D transform, and COPY8's copy,
which is no butterfly (R216; log 6). -/
def otherKernel (k : Nat) (tx : InvTx) (inp : Vector Coef 64) (flags : Vector Bool 8) : KernelOut :=
  match tx.dcForm with
  | some dcTx => if dcInput tx.size inp flags then dcKernel dcTx inp[0] else freeKernel k tx inp flags
  | none => if tx = .copy8 then standardKernel tx inp flags else freeKernel k tx inp flags

/-- The output samples of an inverse transform, in the order they are written, under the `P_KERNELS` of the instance. -/
def invKernel (kernels : Choice) (tx : InvTx) (inp : Vector Coef 64) (flags : Vector Bool 8) : KernelOut :=
  match kernels with
  | .standard => standardKernel tx inp flags
  | .other k => otherKernel k tx inp flags

/-! ### Writing a block (R200, R204) -/

/-- Every intermediate of the kernel stayed in 32 bits. -/
def kernelOk (o : KernelOut) : Bool := o.all fun e => e.2.2.ok

/-- The address of sample `(r, c)` of a block at `off`. -/
def blockAddr (off : Int) (pitch r c : Nat) : Nat := (off + r * pitch + c).toNat

/-- The stores of a block whose kernel stayed in 32 bits. -/
def blockStores (off : Int) (pitch : Nat) (o : KernelOut) : List (Nat × Int) :=
  o.map fun e => (blockAddr off pitch e.1 e.2.1, e.2.2.val)

/-- The stores of a block whose kernel left 32 bits: every sample is a draw (R204). -/
def drawnStores (off : Int) (pitch n d : Nat) (o : KernelOut) : List (Nat × Int) :=
  o.map fun e => (blockAddr off pitch e.1 e.2.1, (Config.freeSample (d + (e.1 * n + e.2.1))).toInt)

/-- The window test of R200 and R281: `off >= 0` and `off + (n-1)*pitch + n <= bufsize`. -/
def blockFits (off : Int) (pitch n bufsize : Nat) : Bool :=
  decide (0 ≤ off ∧ off + ((n : Int) - 1) * pitch + n ≤ bufsize)

/-- The stores a kernel's output makes: its values, or draws when it left 32 bits. -/
def kernelStores (off : Int) (pitch n d : Nat) (o : KernelOut) : List (Nat × Int) :=
  if kernelOk o then blockStores off pitch o else drawnStores off pitch n d o

/-- Writes a kernel's output into buffer `k` of band `(p, b)`. -/
def State.writeBlock (s : State) (d : Dst) (pitch n : Nat) (o : KernelOut) : State :=
  { s.setBuffer d.p d.b d.k
      (storeSamples (s.bufferOf d.p d.b d.k) (kernelStores d.off pitch n s.draws o)) with
    draws := if kernelOk o then s.draws else s.draws + n * n }

end Sys2Proof.Machine
end

