-- ==== Sys2Proof/Machine/McCmds.lean ====
section
/-! DEFINITION. The motion-compensation commands (43_motion_comp.md R250 to R259). -/

namespace Sys2Proof.Machine

/-- The operands of an MC command (R250). -/
structure McOps where
  p : Nat
  b : Nat
  k : Nat
  off : Int
  k1 : Nat
  roff1 : Int
  k2 : Nat
  roff2 : Int
  deriving DecidableEq, Repr

/-- The MC operands of an operand record. -/
def mcOps (o : Opr) : McOps := ⟨o.dst.p, o.dst.b, o.dst.k, o.dst.off, o.k1, o.roff1, o.k2, o.roff2⟩

/-- The extra reach `rs(t)` of interpolation type `t` (R251). -/
def reach (pitch t : Nat) : Nat := (if 1 < t then pitch else 0) + t % 2

/-- `0 <= off <= bufsize - pitch*(n-1) - n - extra` (R251). -/
def windowFits (off : Int) (pitch n extra bufsize : Nat) : Bool :=
  decide (0 ≤ off ∧ off ≤ bufsize - ((pitch : Int) * ((n : Int) - 1) + n) - extra)

/-- The checks of an MC command in order: the band (log 18), the windows (R251), then the buffers and the destination
index (R253). All stand before the command's effect, so the BAD_STATE of the last one counts as one at the head of R402
and keeps `RES` (DESIGN CHOICE, log 8). `t2` is the second reference's type when there is one. -/
def checkMc (o : McOps) (n t : Nat) (t2 : Option Nat) (s : State) : Option ErrKind :=
  match s.band? o.p o.b with
  | none => some .badState
  | some bd =>
    firstError
      [(!windowFits o.off bd.pitch n 0 bd.bufsize, .mvOob),
       (!windowFits o.roff1 bd.pitch n (reach bd.pitch t) bd.bufsize, .mvOob),
       (match t2 with
        | some u => !windowFits o.roff2 bd.pitch n (reach bd.pitch u) bd.bufsize
        | none => false, .mvOob),
       (!s.hasBuffer o.p o.b o.k || !s.hasBuffer o.p o.b o.k1 || (t2.isSome && !s.hasBuffer o.p o.b o.k2), .noReference),
       (decide (o.k = o.k1) || (t2.isSome && decide (o.k = o.k2)), .badState)]

/-- `P(B, o, t, r, c)` (R252). -/
def predict (buf : Buf) (pitch : Nat) (roff : Int) (t r c : Nat) : Int :=
  let a := blockAddr roff pitch r c
  let x := fun d => (bufRead buf (a + d)).toInt
  match t with
  | 0 => x 0
  | 1 => asr (x 0 + x 1) 1
  | 2 => asr (x 0 + x pitch) 1
  | _ => asr (x 0 + x 1 + x pitch + x (pitch + 1)) 2

/-- The positions of a block, row by row. -/
def blockCells (n : Nat) : List (Nat × Nat) :=
  (List.range n).flatMap fun r => (List.range n).map fun c => (r, c)

/-- The samples of a block, stored in order: over what stands there (NoDelta) or added to it (Delta, R255). -/
def mcStore (delta : Bool) (pitch : Nat) (off : Int) (val : Nat → Nat → Int) : Buf → List (Nat × Nat) → Buf
  | buf, [] => buf
  | buf, (r, c) :: rest =>
    let a := blockAddr off pitch r c
    let v := if delta then (bufRead buf a).toInt + val r c else val r c
    mcStore delta pitch off val (bufWrite buf a (wrap16 v)) rest

/-- The pitch of a band. -/
def State.bandPitch (s : State) (p b : Nat) : Nat :=
  match s.band? p b with
  | some bd => bd.pitch
  | none => 0

/-- Writes a predicted block into the destination buffer. -/
def State.mcWrite (s : State) (o : McOps) (n : Nat) (delta : Bool) (val : Nat → Nat → Int) : State :=
  s.setBuffer o.p o.b o.k
    (mcStore delta (s.bandPitch o.p o.b) o.off val (s.bufferOf o.p o.b o.k) (blockCells n))

/-- The prediction of one reference. -/
def State.predicted (s : State) (o : McOps) (t r c : Nat) : Int :=
  predict (s.bufferOf o.p o.b o.k1) (s.bandPitch o.p o.b) o.roff1 t r c

/-- The single-reference effect (R254 to R257). -/
def runMc (o : McOps) (n t : Nat) (delta : Bool) : M Unit :=
  update fun s => s.mcWrite o n delta (s.predicted o t)

/-- The sum of the two predictions as `mctmp` holds it: 16 bits after each pass (R258). -/
def State.mcSum (s : State) (o : McOps) (t t2 r c : Nat) : Sample :=
  let buf2 := s.bufferOf o.p o.b o.k2
  wrap16 ((wrap16 (s.predicted o t r c)).toInt + predict buf2 (s.bandPitch o.p o.b) o.roff2 t2 r c)

/-- `mctmp` with the first `n * n` entries replaced. -/
def mcTmpOf (old : Vector Sample 64) (n : Nat) (sum : Nat → Nat → Sample) : Vector Sample 64 :=
  Vector.ofFn fun i => if i.val < n * n then sum (i.val / n) (i.val % n) else old[i]

/-- `mctmp` left holding the sums (R258). -/
def State.withMcTmp (s : State) (n : Nat) (sum : Nat → Nat → Sample) : State :=
  { s with scratch := { s.scratch with mctmp := mcTmpOf s.scratch.mctmp n sum } }

/-- The averaging effect (R258, R259): `AVG(r, c) = mctmp[r*n + c] >> 1`. -/
def runMcAvg (o : McOps) (n t t2 : Nat) (delta : Bool) : M Unit :=
  update fun s =>
    (s.withMcTmp n (s.mcSum o t t2)).mcWrite o n delta fun r c => asr (s.mcSum o t t2 r c).toInt 1

/-- MC8ND (R254). -/
def execMc8nd (t : BitVec 2) (s : State) : Host.Outcome State Fault Refusal :=
  command (.mc8nd t) (checkMc (mcOps s.opr) 8 t.toNat none) (runMc (mcOps s.opr) 8 t.toNat false) s

/-- MC8D (R255). -/
def execMc8d (t : BitVec 2) (s : State) : Host.Outcome State Fault Refusal :=
  command (.mc8d t) (checkMc (mcOps s.opr) 8 t.toNat none) (runMc (mcOps s.opr) 8 t.toNat true) s

/-- MC4ND (R256). -/
def execMc4nd (t : BitVec 2) (s : State) : Host.Outcome State Fault Refusal :=
  command (.mc4nd t) (checkMc (mcOps s.opr) 4 t.toNat none) (runMc (mcOps s.opr) 4 t.toNat false) s

/-- MC4D (R257). -/
def execMc4d (t : BitVec 2) (s : State) : Host.Outcome State Fault Refusal :=
  command (.mc4d t) (checkMc (mcOps s.opr) 4 t.toNat none) (runMc (mcOps s.opr) 4 t.toNat true) s

/-- MCAVG8ND (R259). -/
def execMcavg8nd (t t2 : BitVec 2) (s : State) : Host.Outcome State Fault Refusal :=
  command (.mcavg8nd t t2) (checkMc (mcOps s.opr) 8 t.toNat (some t2.toNat))
    (runMcAvg (mcOps s.opr) 8 t.toNat t2.toNat false) s

/-- MCAVG8D (R259). -/
def execMcavg8d (t t2 : BitVec 2) (s : State) : Host.Outcome State Fault Refusal :=
  command (.mcavg8d t t2) (checkMc (mcOps s.opr) 8 t.toNat (some t2.toNat))
    (runMcAvg (mcOps s.opr) 8 t.toNat t2.toNat true) s

/-- MCAVG4ND (R259). -/
def execMcavg4nd (t t2 : BitVec 2) (s : State) : Host.Outcome State Fault Refusal :=
  command (.mcavg4nd t t2) (checkMc (mcOps s.opr) 4 t.toNat (some t2.toNat))
    (runMcAvg (mcOps s.opr) 4 t.toNat t2.toNat false) s

/-- MCAVG4D (R259). -/
def execMcavg4d (t t2 : BitVec 2) (s : State) : Host.Outcome State Fault Refusal :=
  command (.mcavg4d t t2) (checkMc (mcOps s.opr) 4 t.toNat (some t2.toNat))
    (runMcAvg (mcOps s.opr) 4 t.toNat t2.toNat true) s

end Sys2Proof.Machine
end

