-- ==== Sys2Proof/Machine/TransformCmds.lean ====
section
/-! DEFINITION. The transform commands (42_transforms.md R200 to R222, R230 to R237). -/

namespace Sys2Proof.Machine

/-- The `bufsize` of a destination's band. -/
def State.bandSize (s : State) (p b : Nat) : Nat :=
  match s.band? p b with
  | some bd => bd.bufsize
  | none => 0

/-- The checks of a transform with an `n` by `n` block (R200): the destination buffer exists (log 18), then the window
lies in it. -/
def checkBlockWrite (d : Dst) (pitch n : Nat) (s : State) : Option ErrKind :=
  firstError
    [(!(s.hasBand d.p d.b && s.hasBuffer d.p d.b d.k), .badState),
     (!blockFits d.off pitch n (s.bandSize d.p d.b), .blockOob)]

/-- The effect of an inverse transform (R200). -/
def runInvTx (tx : InvTx) (coefs : Vector Coef 64) (flags : Vector Bool 8) (d : Dst) (pitch : Nat) : M Unit :=
  update fun s => s.writeBlock d pitch tx.size (invKernel s.params.kernels tx coefs flags)

/-- The effect of a DC transform (R230). -/
def runDcTx (tx : DcTx) (dc : Coef) (d : Dst) (pitch : Nat) : M Unit :=
  update fun s => s.writeBlock d pitch tx.size (dcKernel tx dc)

/-- An INVTX command. -/
def invTxCommand (i : Instr) (tx : InvTx) (s : State) : Host.Outcome State Fault Refusal :=
  command i (checkBlockWrite s.opr.dst s.opr.pitch tx.size)
    (runInvTx tx s.opr.coefs s.opr.flags s.opr.dst s.opr.pitch) s

/-- A DCTX command. -/
def dcTxCommand (i : Instr) (tx : DcTx) (s : State) : Host.Outcome State Fault Refusal :=
  command i (checkBlockWrite s.opr.dst s.opr.pitch tx.size) (runDcTx tx s.opr.dc s.opr.dst s.opr.pitch) s

/-- HAAR8 (R210). -/
def execHaar8 (s : State) : Host.Outcome State Fault Refusal := invTxCommand .haar8 .haar8 s

/-- HAARROW8 (R211). -/
def execHaarrow8 (s : State) : Host.Outcome State Fault Refusal := invTxCommand .haarrow8 .haarrow8 s

/-- HAARCOL8 (R212). -/
def execHaarcol8 (s : State) : Host.Outcome State Fault Refusal := invTxCommand .haarcol8 .haarcol8 s

/-- SLANT8 (R213). -/
def execSlant8 (s : State) : Host.Outcome State Fault Refusal := invTxCommand .slant8 .slant8 s

/-- SLANTROW8 (R214). -/
def execSlantrow8 (s : State) : Host.Outcome State Fault Refusal := invTxCommand .slantrow8 .slantrow8 s

/-- SLANTCOL8 (R215). -/
def execSlantcol8 (s : State) : Host.Outcome State Fault Refusal := invTxCommand .slantcol8 .slantcol8 s

/-- COPY8 (R216). -/
def execCopy8 (s : State) : Host.Outcome State Fault Refusal := invTxCommand .copy8 .copy8 s

/-- HAAR4 (R217). -/
def execHaar4 (s : State) : Host.Outcome State Fault Refusal := invTxCommand .haar4 .haar4 s

/-- HAARROW4 (R218). -/
def execHaarrow4 (s : State) : Host.Outcome State Fault Refusal := invTxCommand .haarrow4 .haarrow4 s

/-- HAARCOL4 (R219). -/
def execHaarcol4 (s : State) : Host.Outcome State Fault Refusal := invTxCommand .haarcol4 .haarcol4 s

/-- SLANT4 (R220). -/
def execSlant4 (s : State) : Host.Outcome State Fault Refusal := invTxCommand .slant4 .slant4 s

/-- SLANTROW4 (R221). -/
def execSlantrow4 (s : State) : Host.Outcome State Fault Refusal := invTxCommand .slantrow4 .slantrow4 s

/-- SLANTCOL4 (R222). -/
def execSlantcol4 (s : State) : Host.Outcome State Fault Refusal := invTxCommand .slantcol4 .slantcol4 s

/-- DCHAAR8 (R231). -/
def execDchaar8 (s : State) : Host.Outcome State Fault Refusal := dcTxCommand .dchaar8 .dchaar8 s

/-- DCHAAR4 (R232). -/
def execDchaar4 (s : State) : Host.Outcome State Fault Refusal := dcTxCommand .dchaar4 .dchaar4 s

/-- DCSLANT8 (R233). -/
def execDcslant8 (s : State) : Host.Outcome State Fault Refusal := dcTxCommand .dcslant8 .dcslant8 s

/-- DCSLANT4 (R234). -/
def execDcslant4 (s : State) : Host.Outcome State Fault Refusal := dcTxCommand .dcslant4 .dcslant4 s

/-- DCROWSLANT8 (R235). -/
def execDcrowslant8 (s : State) : Host.Outcome State Fault Refusal := dcTxCommand .dcrowslant8 .dcrowslant8 s

/-- DCROWSLANT4 (R235). -/
def execDcrowslant4 (s : State) : Host.Outcome State Fault Refusal := dcTxCommand .dcrowslant4 .dcrowslant4 s

/-- DCCOLSLANT8 (R236). -/
def execDccolslant8 (s : State) : Host.Outcome State Fault Refusal := dcTxCommand .dccolslant8 .dccolslant8 s

/-- DCCOLSLANT4 (R236). -/
def execDccolslant4 (s : State) : Host.Outcome State Fault Refusal := dcTxCommand .dccolslant4 .dccolslant4 s

/-- DCCOPY8 (R237). -/
def execDccopy8 (s : State) : Host.Outcome State Fault Refusal := dcTxCommand .dccopy8 .dccopy8 s

end Sys2Proof.Machine
end

