-- ==== Sys2Proof/Machine/BlockCmds.lean ====
section
/-! DEFINITION. Coefficients and blocks (44_coeff_dequant.md R281 to R287): DEQUANT, DECBLK, DCBLK, DECTILEBLKS. -/

namespace Sys2Proof.Machine

/-! ### DEQUANT (R282) -/

/-- The base table of a band. -/
def Band.base (bd : Band) (intra : Bool) : Option (List (BitVec 16)) := if intra then bd.intraBase else bd.interBase

/-- `fsign` (R282). -/
def fsign (v : Int) : Int := if 0 < v then 1 else -1

/-- `q = (base[pos] * quant) >> 9` (R282). -/
def dequantStep (base : List (BitVec 16)) (pos : Nat) (quant : Int) : Int :=
  asr (((base[pos]?.getD (Config.baseBeyond pos)).toNat : Int) * quant) 9

/-- `((q ^ 1) - 1) >> 1` for a positive `q` (R282). -/
def roundTerm (q : Int) : Int := (((q.toNat ^^^ 1) - 1) / 2 : Nat)

/-- The dequantised value of `val` for the step `q` (R282). -/
def dequantWith (q val : Int) : Coef :=
  if 1 < q then wrap32 (val * q + fsign val * roundTerm q) else wrap32 val

/-- DEQUANT's value (R282), or BAD_STATE where the base table is NONE or `pos` is outside the block. -/
def dequant (bd : Band) (intra : Bool) (pos : Nat) (val quant : Int) : Except ErrKind Coef :=
  match bd.base intra with
  | none => .error .badState
  | some base =>
    if pos < bd.blkSize * bd.blkSize then .ok (dequantWith (dequantStep base pos quant) val) else .error .badState

/-- The head checks of DEQUANT (R280, R282; log 8). -/
def checkDequant (o : Opr) (s : State) : Option ErrKind :=
  match checkReady o.dst.p o.dst.b s with
  | some e => some e
  | none =>
    match s.band? o.dst.p o.dst.b with
    | none => some .badState
    | some bd =>
      match dequant bd o.intra o.pos o.val.toInt o.quant with
      | .ok _ => none
      | .error e => some e

/-- A value a pure rule gives, or its error. -/
def liftExcept {α : Type} (r : Except ErrKind α) : M α := fun s =>
  match r with
  | .ok a => .ok a s
  | .error e => .error e s

/-- DEQUANT's body: `RES <- sext(v)`. -/
def dequantToRes (o : Opr) : M Unit :=
  getBand o.dst.p o.dst.b >>= fun bd =>
    liftExcept (dequant bd o.intra o.pos o.val.toInt o.quant) >>= fun v => setRes (v.signExtend 64)

/-- DEQUANT (R282). -/
def execDequant (s : State) : Host.Outcome State Fault Refusal :=
  command .dequant (checkDequant s.opr) (dequantToRes s.opr) s

/-! ### The macroblock context (R283) -/

/-- What `MBCTX` gives. A missing interpolation type is NONE. -/
structure MbCtx where
  intra : Bool
  quant : Int
  t1 : Option Nat
  t2 : Option Nat
  mx : Int
  my : Int
  mx2 : Int
  my2 : Int
  deriving DecidableEq, Repr

/-- `v >> h` for the half-pel bit `h`. -/
def halve (h : Bool) (v : Int) : Int := if h then asr v 1 else v

/-- `v & h` for the half-pel bit `h`. -/
def halfBit (h : Bool) (v : Int) : Nat := if h then lowBit v else 0

/-- The interpolation type of a vector (R283; 30_encoding.md R128). -/
def mcType (h : Bool) (vx vy : Int) : Nat := if h then lowBit vy * 2 + lowBit vx else 0

/-- The largest quantiser (R283). -/
def maxQuant : Codec → Int
  | .indeo4 => 31
  | .indeo5 => 23

/-- The quantiser of a macroblock (R283). -/
def mbQuant (codec : Codec) (bd : Band) (mb : Mb) : Int :=
  let q := min (max ((bd.globQuant.toNat : Int) + mb.qDelta) 0) (maxQuant codec)
  match (if mb.type = 0 then bd.intraScale else bd.interScale) with
  | none => q
  | some table => ((table[q.toNat]?.getD (Config.scaleBeyond q.toNat)).toNat : Int)

/-- `MBCTX` without its vector checks (R283). -/
def mbContext (codec : Codec) (bd : Band) (mb : Mb) : MbCtx where
  intra := decide (mb.type = 0)
  quant := mbQuant codec bd mb
  t1 := if mb.type = 0 ∨ mb.type = 2 then none else some (mcType bd.isHalfpel mb.mvX mb.mvY)
  t2 := if mb.type = 2 ∨ mb.type = 3 then some (mcType bd.isHalfpel mb.bMvX mb.bMvY) else none
  mx := halve bd.isHalfpel mb.mvX
  my := halve bd.isHalfpel mb.mvY
  mx2 := halve bd.isHalfpel mb.bMvX
  my2 := halve bd.isHalfpel mb.bMvY

/-- `MVCHK` holds (R283): the predicted macroblock lies in the padded band. -/
def vectorFits (bd : Band) (x y : Nat) (vx vy : Int) : Bool :=
  let h := bd.isHalfpel
  decide (0 ≤ x + halve h vx ∧ x + halve h vx + bd.mbSize + halfBit h vx ≤ bd.pitch
    ∧ 0 ≤ y + halve h vy ∧ y + halve h vy + bd.mbSize + halfBit h vy ≤ bd.aheight)

/-- The vector checks of `MBCTX` hold (R283). -/
def vectorsFit (bd : Band) (mb : Mb) : Bool :=
  decide (mb.type = 0) ||
    (vectorFits bd mb.xpos mb.ypos mb.mvX mb.mvY
      && (!(decide (mb.type = 2 ∨ mb.type = 3)) || vectorFits bd mb.xpos mb.ypos mb.bMvX mb.bMvY))

/-- `MBCTX` (R283). -/
def mbCtx (bd : Band) (mb : Mb) : M MbCtx :=
  raiseIf (!vectorsFit bd mb) .mvOob >>= fun _ => look fun s => mbContext s.params.codec bd mb

/-! ### Prediction (R284) -/

/-- `boff(mb, blk)` (R284). -/
def blockOffset (bd : Band) (mb : Mb) (blk : Nat) : Nat :=
  mb.bufOffs + bd.blkSize * (blk % 2 + blk / 2 * bd.pitch)

/-- An MC command run by a block command. -/
def predictSingle (o : McOps) (n t : Nat) (delta : Bool) : M Unit := sub (checkMc o n t none) (runMc o n t delta)

/-- An averaging MC command run by a block command. -/
def predictBoth (o : McOps) (n t t2 : Nat) (delta : Bool) : M Unit :=
  sub (checkMc o n t (some t2)) (runMcAvg o n t t2 delta)

/-- The reference buffer a prediction names; NO_REFERENCE where it is NONE. -/
def needRef (r : Option (Fin 4)) : M (Fin 4) := need .noReference r

/-- `PRED(mb, blk, D)` (R284). A reference register that is NONE raises NO_REFERENCE before the MC command and so before
its window tests (DESIGN CHOICE, log 44). -/
def predictBlock (p b : Nat) (bd : Band) (c : MbCtx) (off : Nat) (delta : Bool) : M Unit :=
  look (fun s => s.rot.dstBuf) >>= fun k =>
    let r1 : Int := off + c.my * bd.pitch + c.mx
    let r2 : Int := off + c.my2 * bd.pitch + c.mx2
    match c.t1, c.t2 with
    | some t, none => needRef bd.refBuf >>= fun k1 => predictSingle ⟨p, b, k, off, k1, r1, 0, 0⟩ bd.blkSize t delta
    | none, some t => needRef bd.bRefBuf >>= fun k1 => predictSingle ⟨p, b, k, off, k1, r2, 0, 0⟩ bd.blkSize t delta
    | some t, some t2 => needRef bd.refBuf >>= fun k1 => needRef bd.bRefBuf >>= fun k2 =>
        predictBoth ⟨p, b, k, off, k1, r1, k2, r2⟩ bd.blkSize t t2 delta
    | none, none => done

/-! ### DECBLK (R285) -/

/-- Writes the kernels' working state. -/
def updScratch (f : Scratch → Scratch) : M Unit := update fun s => { s with scratch := f s.scratch }

/-- `trvec <- 0; col_flags <- 0; scan_pos <- -1`. -/
def clearBlock (n : Nat) : M Unit :=
  updScratch fun c =>
    { c with trvec := Vector.ofFn fun i => if i.val < n * n then 0 else c.trvec[i], colFlags := noColFlags, scanPos := -1 }

/-- The VLC read of a band's block symbols. -/
def readSymbol (bd : Band) : M Nat := look (fun s => s.tableOf bd.blkVlc) >>= readVlc

/-- The run and the value of a symbol (R285). -/
def runValue (bd : Band) (rv : RvMap) (sym : Nat) : M (Nat × Int) :=
  if sym = rv.escSym.toNat then
    readSymbol bd >>= fun run => readSymbol bd >>= fun lo => readSymbol bd >>= fun hi =>
      pure (run + 1, toSigned (hi * 64 ||| lo))
  else if h : sym < 256 then pure ((rv.runtab[sym]).toNat, (rv.valtab[sym]).toInt)
  else raise .badSymbol

/-- One turn of the coefficient loop (R285): true when it goes on. -/
def coefTurn (bd : Band) (scan : List Nat) (intra : Bool) (quant : Int) : M Bool :=
  look (fun s => s.rvmaps[bd.rvmapSel]) >>= fun rv => readSymbol bd >>= fun sym =>
    if sym = rv.eobSym.toNat then pure false
    else runValue bd rv sym >>= fun rval =>
      updScratch (fun c => { c with scanPos := c.scanPos + rval.1 }) >>= fun _ =>
      look (fun s => s.scratch.scanPos) >>= fun sp =>
        if ((bd.blkSize * bd.blkSize : Nat) : Int) ≤ sp ∨ sp < 0 then pure false
        else
          let pos := scan[sp.toNat]?.getD (Config.scanBeyond sp.toNat)
          liftExcept (dequant bd intra pos rval.2 quant) >>= fun v =>
            updScratch (fun c => { c with trvec := c.trvec.setIfInBounds pos v,
                                          colFlags := markColumn c.colFlags pos bd.blkSize v }) >>= fun _ =>
            pure true

/-- `prev_dc <- wrap32(prev_dc + trvec[0]); trvec[0] <- prev_dc; col_flags[0] |= (prev_dc != 0)` (R285). -/
def addPrevDc (c : Scratch) : Scratch :=
  let dc := wrap32 (c.prevDc.toInt + c.trvec[0].toInt)
  { c with prevDc := dc, trvec := c.trvec.set 0 dc, colFlags := c.colFlags.set 0 (c.colFlags[0] || decide (dc ≠ 0)) }

/-- The inverse transform of a decoded block (R285). -/
def transformBlock (p b : Nat) (bd : Band) (tx : InvTx) (off : Nat) : M Unit :=
  look (fun s => (s.scratch, s.rot.dstBuf)) >>= fun cs =>
    let d : Dst := ⟨p, b, cs.2, off⟩
    sub (checkBlockWrite d bd.pitch tx.size) (runInvTx tx cs.1.trvec cs.1.colFlags d bd.pitch)

/-- DECBLK's pseudocode (R285). After the coefficient loop `scan_pos` is outside the block exactly when a run left it
or no coefficient came before the end of the block. The BAD_STATE of a band without a scan or a transform stands after
other steps, so it is no precondition at the head of R402: it draws `RES` and the working state (DESIGN CHOICE, log 8). -/
def decodeBlock (p b t m blk : Nat) : M Unit :=
  getBand p b >>= fun bd => getMb p b t m >>= fun mb => mbCtx bd mb >>= fun c =>
  let off := blockOffset bd mb blk
  raiseIf (!blockFits off bd.pitch bd.transformSize bd.bufsize) .blockOob >>= fun _ =>
  need .badState bd.scan >>= fun scan => need .badState bd.invTransform >>= fun tx =>
  clearBlock bd.blkSize >>= fun _ =>
  readLoop (coefTurn bd scan c.intra c.quant) >>= fun _ =>
  look (fun s => s.scratch.scanPos) >>= fun sp =>
  raiseIf (decide (sp < 0 ∨ ((bd.blkSize * bd.blkSize : Nat) : Int) ≤ sp)) .blockCorrupt >>= fun _ =>
  (if c.intra && bd.is2d then updScratch addPrevDc else done) >>= fun _ =>
  raiseIf (decide (bd.blkSize < bd.transformSize)) .blockCorrupt >>= fun _ =>
  transformBlock p b bd tx off >>= fun _ =>
  if c.intra then done else predictBlock p b bd c off true

/-- DECBLK (R285). Afterwards the working state is unspecified (10_state.md R50). -/
def execDecblk (p b : BitVec 2) (s : State) : Host.Outcome State Fault Refusal :=
  command (.decblk p b) (checkBlock p.toNat b.toNat s.opr.t s.opr.m s.opr.blk)
    (finally' (decodeBlock p.toNat b.toNat s.opr.t s.opr.m s.opr.blk) State.releaseScratch) s

/-! ### DCBLK (R286) -/

/-- DCBLK's pseudocode (R286). -/
def fillBlock (p b t m blk : Nat) : M Unit :=
  getBand p b >>= fun bd => getMb p b t m >>= fun mb => mbCtx bd mb >>= fun c =>
  let off := blockOffset bd mb blk
  raiseIf (!blockFits off bd.pitch bd.blkSize bd.bufsize) .blockOob >>= fun _ =>
  if c.intra then
    match bd.dcTransform with
    | none => done
    | some tx =>
      look (fun s => (s.scratch.prevDc, s.rot.dstBuf)) >>= fun dk =>
        let d : Dst := ⟨p, b, dk.2, off⟩
        sub (checkBlockWrite d bd.pitch tx.size) (runDcTx tx dk.1 d bd.pitch)
  else predictBlock p b bd c off false

/-- DCBLK (R286). -/
def execDcblk (p b : BitVec 2) (s : State) : Host.Outcome State Fault Refusal :=
  command (.dcblk p b) (checkBlock p.toNat b.toNat s.opr.t s.opr.m s.opr.blk)
    (fillBlock p.toNat b.toNat s.opr.t s.opr.m s.opr.blk) s

/-! ### DECTILEBLKS (R287) -/

/-- The number of blocks of a macroblock (R287). -/
def Band.blocksPerMb (bd : Band) : Nat := if bd.mbSize ≠ bd.blkSize then 4 else 1

/-- Block `blk` of a macroblock: DECBLK where its `cbp` bit is 1, else DCBLK. -/
def codedOrNot (p b t m : Nat) (mb : Mb) (blk : Nat) : M Unit :=
  sub (checkBlock p b t m blk) (if mb.cbp.getLsbD blk then decodeBlock p b t m blk else fillBlock p b t m blk)

/-- The blocks of one macroblock. -/
def decodeMb (p b t m : Nat) : M Unit :=
  getBand p b >>= fun bd => getMb p b t m >>= fun mb => mbCtx bd mb >>= fun _ =>
    forEach (codedOrNot p b t m mb) (List.range bd.blocksPerMb)

/-- DECTILEBLKS's pseudocode (R287). -/
def decodeTileBlocks (p b t : Nat) : M Unit :=
  updScratch (fun c => { c with prevDc := 0 }) >>= fun _ => getTile p b t >>= fun tl =>
    forEach (decodeMb p b t) (List.range tl.mbs.length) >>= fun _ => alignBits

/-- DECTILEBLKS (R287). Afterwards the working state is unspecified (10_state.md R50). -/
def execDectileblks (p b : BitVec 2) (s : State) : Host.Outcome State Fault Refusal :=
  command (.dectileblks p b) (checkTile p.toNat b.toNat s.opr.t)
    (finally' (decodeTileBlocks p.toNat b.toNat s.opr.t) State.releaseScratch) s

end Sys2Proof.Machine
end

