-- ==== Sys2Proof/Machine/TileCmds.lean ====
section
/-! DEFINITION. Tiles: EMPTYTILE and TILESIZE (44_coeff_dequant.md R288, R289), the vector helpers (R293 to R295) and the
positions of a tile's macroblocks. -/

namespace Sys2Proof.Machine

/-! ### Vector helpers -/

/-- `SCALEMV(mv, s)` (R293), stated there for `s >= 1` (log 21). -/
def scaleMv (mv s : Int) : Int :=
  if 1 ≤ s then asr (mv + (if 0 < mv then 1 else 0) + (s - 1)) s.toNat else Config.scaleMvBelow mv s

/-- The motion-vector scale of a band (R294). -/
def State.mvScale (s : State) (bd : Band) : Int :=
  match s.band? 0 0 with
  | some b0 => ((b0.mbSize / 8 : Nat) : Int) - (bd.mbSize / 8 : Nat)
  | none => 0

/-- One component of an inherited vector (R288, R296). -/
def inheritedMv (mvs mv : Int) : Int := if mvs ≠ 0 then scaleMv mv mvs else mv

/-- The macroblock `ref_mbs[r]` of a tile: NONE where the tile has no reference, BAD_STATE where the reference tile
lacks it (log 24). -/
def refMb (tl : Tile) (r : Nat) : M (Option Mb) :=
  match tl.refTile with
  | none => pure none
  | some i => getMb 0 0 i r >>= fun mb => pure (some mb)

/-- `MBWIN` holds (R295). -/
def mbWindow (bd : Band) (mb : Mb) : Bool :=
  let h := bd.isHalfpel
  let up : Int := if h then 1 else 0
  decide (0 ≤ mb.xpos + halve h mb.mvX + (mb.ypos + halve h mb.mvY) * bd.pitch
    ∧ mb.xpos + halve h (mb.mvX + up) + bd.mbSize - 1 + (mb.ypos + bd.mbSize - 1 + halve h (mb.mvY + up)) * bd.pitch
      ≤ (bd.bufsize : Int) - 1)

/-! ### Positions -/

/-- The macroblock positions of a tile in raster order, numbered: index, x, y. -/
def mbPositions (tl : Tile) (ms : Nat) : List (Nat × Nat × Nat) :=
  ((List.range (ceilDiv tl.height ms)).flatMap fun j => (List.range (ceilDiv tl.width ms)).map fun i =>
    (tl.xpos + i * ms, tl.ypos + j * ms)).zipIdx.map fun e => (e.2, e.1.1, e.1.2)

/-- The macroblock count matches the geometry (R288, R296); a macroblock size of 0 does not (log 20). -/
def countMatches (tl : Tile) (ms : Nat) : Bool :=
  decide (ms ≠ 0) && decide (tl.mbs.length = ceilDiv tl.width ms * ceilDiv tl.height ms)

/-- Writes fields of macroblock `m`. -/
def updMb (p b t m : Nat) (f : Mb → Mb) : M Unit := update fun s => s.updMb p b t m f

/-! ### EMPTYTILE (R288) -/

/-- One macroblock of an empty tile; true when it inherits a vector that is not zero. -/
def emptyMb (p b t : Nat) (bd : Band) (tl : Tile) (m x y : Nat) : M Bool :=
  updMb p b t m (fun mb => { mb with xpos := x, ypos := y, bufOffs := y * bd.pitch + x, type := 1, cbp := 0 }) >>= fun _ =>
  (if !bd.qdeltaPresent && decide (bd.plane = 0) && decide (bd.bandNum = 0) then
    updMb p b t m fun mb => { mb with qDelta := bd.globQuant.toNat, mvX := 0, mvY := 0 }
   else done) >>= fun _ =>
  refMb tl m >>= fun ref? =>
  match ref? with
  | none => pure false
  | some ref =>
    (if bd.inheritQdelta then updMb p b t m fun mb => { mb with qDelta := ref.qDelta } else done) >>= fun _ =>
    if bd.inheritMv then
      look (fun s => s.mvScale bd) >>= fun mvs =>
      let vx := inheritedMv mvs ref.mvX
      let vy := inheritedMv mvs ref.mvY
      updMb p b t m (fun mb => { mb with mvX := vx, mvY := vy }) >>= fun _ =>
      raiseIf (!vectorFits bd x y vx vy) .mvOob >>= fun _ => pure (decide (vx ≠ 0 ∨ vy ≠ 0))
    else pure false

/-- The macroblocks of an empty tile in order; the result is `need_mc`. -/
def emptyMbs (p b t : Nat) (bd : Band) (tl : Tile) : List (Nat × Nat × Nat) → Bool → M Bool
  | [], needMc => pure needMc
  | (m, x, y) :: rest, needMc =>
    emptyMb p b t bd tl m x y >>= fun moves => emptyMbs p b t bd tl rest (needMc || moves)

/-- The prediction of one block of an empty tile's macroblock (R288). A `ref_buf` that is NONE raises NO_REFERENCE before
the window tests (DESIGN CHOICE, log 44). -/
def emptyBlock (p b : Nat) (bd : Band) (mb : Mb) (blk : Nat) : M Unit :=
  needRef bd.refBuf >>= fun k1 => look (fun s => s.rot.dstBuf) >>= fun k =>
    let off : Int := blockOffset bd mb blk
    let h := bd.isHalfpel
    predictSingle ⟨p, b, k, off, k1, off + halve h mb.mvY * bd.pitch + halve h mb.mvX, 0, 0⟩ bd.blkSize
      (mcType h mb.mvX mb.mvY) false

/-- The predictions of one macroblock of an empty tile. -/
def emptyPredict (p b t : Nat) (bd : Band) (m : Nat) : M Unit :=
  getMb p b t m >>= fun mb => forEach (emptyBlock p b bd mb) (List.range bd.blocksPerMb)

/-- The addresses of a tile's samples, row by row. -/
def tileCells (bd : Band) (tl : Tile) : List Nat :=
  (List.range tl.height).flatMap fun row => (List.range tl.width).map fun col =>
    (tl.ypos + row) * bd.pitch + tl.xpos + col

/-- Stores the samples of another buffer at the listed addresses. -/
def copySamples (src : Buf) : Buf → List Nat → Buf
  | dst, [] => dst
  | dst, a :: rest => copySamples src (bufWrite dst a (bufRead src a)) rest

/-- The copy of the co-located tile of the reference buffer (R288). -/
def copyTile (p b : Nat) (bd : Band) (tl : Tile) : M Unit :=
  needRef bd.refBuf >>= fun k1 => look (fun s => s.buffer? p b k1) >>= fun src? => need .noReference src? >>= fun src =>
    update fun s => s.setBuffer p b s.rot.dstBuf (copySamples src (s.bufferOf p b s.rot.dstBuf) (tileCells bd tl))

/-- EMPTYTILE's pseudocode (R288). -/
def emptyTile (p b t : Nat) : M Unit :=
  getBand p b >>= fun bd => getTile p b t >>= fun tl =>
  raiseIf (!countMatches tl bd.mbSize) .geometryMismatch >>= fun _ =>
  emptyMbs p b t bd tl (mbPositions tl bd.mbSize) false >>= fun needMc =>
    if bd.inheritMv && needMc then forEach (emptyPredict p b t bd) (List.range tl.mbs.length)
    else copyTile p b bd tl

/-- EMPTYTILE (R288). -/
def execEmptytile (p b : BitVec 2) (s : State) : Host.Outcome State Fault Refusal :=
  command (.emptytile p b) (checkTile p.toNat b.toNat s.opr.t) (emptyTile p.toNat b.toNat s.opr.t) s

/-! ### TILESIZE (R289) -/

/-- The size field of a tile (R289). -/
def tileSizeField : M Nat :=
  readFlag >>= fun coded =>
    if coded then readBits 8 >>= fun v => if v = 255 then readBits 24 else pure v else pure 0

/-- TILESIZE's pseudocode (R289). -/
def readTileSize : M Nat := tileSizeField >>= fun len => alignBits >>= fun _ => pure len

/-- TILESIZE (R289). -/
def execTilesize (s : State) : Host.Outcome State Fault Refusal :=
  command .tilesize needStream (readTileSize >>= fun len => setRes (BitVec.ofNat 64 len)) s

end Sys2Proof.Machine
end

