-- ==== Sys2Proof/Machine/MbInfoCmds.lean ====
section
/-! DEFINITION. DECMBINFO: the macroblock information of a tile (44_coeff_dequant.md R296 under INDEO4, R297 under
INDEO5). -/

namespace Sys2Proof.Machine

/-- `IVI_TOSIGNED(VLC(mb_vlc))`. -/
def readMbSigned : M Int :=
  look (fun s => s.tableOf s.mbVlc) >>= readVlc >>= fun u => pure (toSigned u)

/-- Band (0, 0) of its plane, where every macroblock may carry a quantiser delta. -/
def Band.isFirst (bd : Band) : Bool := decide (bd.plane = 0) && decide (bd.bandNum = 0)

/-- Two vector deltas, y before x, added to the predictor `(px, py)`. -/
def readDeltas (pred : Int × Int) : M (Int × Int) :=
  readMbSigned >>= fun dy => readMbSigned >>= fun dx => pure (pred.1 + dx, pred.2 + dy)

/-- Reads a quantiser delta into macroblock `m`. -/
def readQDelta (p b t m : Nat) : M Unit :=
  readMbSigned >>= fun q => updMb p b t m fun mb => { mb with qDelta := q }

/-- Gives macroblock `m` the vector of its reference. -/
def inheritVector (p b t m : Nat) (bd : Band) (ref : Mb) : M Unit :=
  look (fun s => s.mvScale bd) >>= fun mvs =>
    updMb p b t m fun mb => { mb with mvX := inheritedMv mvs ref.mvX, mvY := inheritedMv mvs ref.mvY }

/-- An empty macroblock (both codecs): `coded` says whether every macroblock of band (0, 0) codes `q_delta`. -/
def emptyMbInfo (p b t m : Nat) (bd : Band) (coded : Bool) (ref? : Option Mb) : M Unit :=
  look (fun s => decide (s.frameType = 0)) >>= fun intraFrame => raiseIf intraFrame .badHeader >>= fun _ =>
  updMb p b t m (fun mb => { mb with type := 1, cbp := 0, qDelta := 0 }) >>= fun _ =>
  (if bd.isFirst && coded then readQDelta p b t m else done) >>= fun _ =>
  updMb p b t m (fun mb => { mb with mvX := 0, mvY := 0 }) >>= fun _ =>
  match ref? with
  | some ref => if bd.inheritMv then inheritVector p b t m bd ref else done
  | none => done

/-- The type and the `cbp` of a macroblock that is not empty. -/
def mbTypeAndCbp (p b t m : Nat) (bd : Band) (readType : M (BitVec 2)) : M Unit :=
  readType >>= fun ty => updMb p b t m (fun mb => { mb with type := ty }) >>= fun _ =>
    readBits bd.blocksPerMb >>= fun cbp =>
      updMb p b t m fun mb => { mb with cbp := BitVec.ofNat 4 cbp, qDelta := 0 }

/-- `MBWIN` of macroblock `m` unless it is intra (R295). -/
def checkMbWindow (p b t m : Nat) (bd : Band) : M Unit :=
  getMb p b t m >>= fun mb => raiseIf (decide (mb.type ≠ 0) && !mbWindow bd mb) .mvOob

/-! ### INDEO4 (R296) -/

/-- The type of an INDEO4 macroblock that is not empty. -/
def mbType4 (bd : Band) (ref? : Option Mb) : M (BitVec 2) :=
  if bd.inheritMv then need .badHeader ref? >>= fun ref => pure ref.type
  else look (fun s => s.frameType) >>= fun ft =>
    if ft = 0 ∨ ft = 1 then pure 0
    else readBits (if ft = 3 then 2 else 1) >>= fun v => pure (BitVec.ofNat 2 v)

/-- The quantiser delta of an INDEO4 macroblock that is not empty. -/
def mbQDelta4 (p b t m : Nat) (bd : Band) (ref? : Option Mb) : M Unit :=
  if bd.inheritQdelta then
    match ref? with
    | some ref => updMb p b t m fun mb => { mb with qDelta := ref.qDelta }
    | none => done
  else getMb p b t m >>= fun mb => look (fun s => s.hdr.inQ) >>= fun inQ =>
    if mb.cbp ≠ 0 ∨ (bd.isFirst && inQ) then readQDelta p b t m else done

/-- The decoded vectors of an INDEO4 macroblock; the result is the new predictor. -/
def decodeVectors4 (p b t m : Nat) (ty : BitVec 2) (pred : Int × Int) : M (Int × Int) :=
  readDeltas pred >>= fun v => updMb p b t m (fun mb => { mb with mvX := v.1, mvY := v.2 }) >>= fun _ =>
    if ty = 3 then
      readDeltas v >>= fun w => updMb p b t m (fun mb => { mb with bMvX := -w.1, bMvY := -w.2 }) >>= fun _ => pure w
    else pure v

/-- The vectors of an INDEO4 macroblock that is not empty; the result is the new predictor. -/
def mbVectors4 (p b t m : Nat) (bd : Band) (ref? : Option Mb) (pred : Int × Int) : M (Int × Int) :=
  getMb p b t m >>= fun mb0 =>
    if mb0.type = 0 then
      updMb p b t m (fun mb => { mb with mvX := 0, mvY := 0 }) >>= fun _ => pure pred
    else
      (if bd.inheritMv then
        (match ref? with
         | some ref => inheritVector p b t m bd ref
         | none => done) >>= fun _ => pure pred
       else decodeVectors4 p b t m mb0.type pred) >>= fun pred' =>
      (if mb0.type = 2 then
        updMb p b t m fun mb => { mb with bMvX := -mb.mvX, bMvY := -mb.mvY, mvX := 0, mvY := 0 }
       else done) >>= fun _ => pure pred'

/-- One macroblock under INDEO4; the result is the new predictor. -/
def mbInfo4 (p b t : Nat) (bd : Band) (tl : Tile) (m x y : Nat) (pred : Int × Int) : M (Int × Int) :=
  refMb tl m >>= fun ref? =>
  updMb p b t m (fun mb =>
    { mb with xpos := x, ypos := y, bufOffs := y * bd.pitch + x, bMvX := 0, bMvY := 0 }) >>= fun _ =>
  readFlag >>= fun empty =>
  (if empty then
    look (fun s => s.hdr.inQ) >>= fun inQ => emptyMbInfo p b t m bd inQ ref? >>= fun _ => pure pred
   else
    mbTypeAndCbp p b t m bd (mbType4 bd ref?) >>= fun _ => mbQDelta4 p b t m bd ref? >>= fun _ =>
    mbVectors4 p b t m bd ref? pred) >>= fun pred' =>
  checkMbWindow p b t m bd >>= fun _ => pure pred'

/-! ### INDEO5 (R297) -/

/-- "Always code q_delta": `frame_flags` bit 3 (R297 (c)). -/
def State.alwaysQDelta5 (s : State) : Bool := s.hdr.frameFlags.getLsbD 3

/-- The type of an INDEO5 macroblock that is not empty (R297 (b)). -/
def mbType5 (bd : Band) (ref? : Option Mb) : M (BitVec 2) :=
  match (if bd.inheritMv then ref? else none) with
  | some ref => pure ref.type
  | none => look (fun s => s.frameType) >>= fun ft =>
    if ft = 0 then pure 0 else readBits 1 >>= fun v => pure (BitVec.ofNat 2 v)

/-- The quantiser delta of an INDEO5 macroblock that is not empty (R297 (d)). -/
def mbQDelta5 (p b t m : Nat) (bd : Band) (ref? : Option Mb) : M Unit :=
  if bd.qdeltaPresent then
    if bd.inheritQdelta then
      match ref? with
      | some ref => updMb p b t m fun mb => { mb with qDelta := ref.qDelta }
      | none => done
    else getMb p b t m >>= fun mb => look State.alwaysQDelta5 >>= fun always =>
      if mb.cbp ≠ 0 ∨ (bd.isFirst && always) then readQDelta p b t m else done
  else done

/-- The vector of an INDEO5 macroblock that is not empty (R297 (b)); the result is the new predictor. -/
def mbVector5 (p b t m : Nat) (bd : Band) (ref? : Option Mb) (pred : Int × Int) : M (Int × Int) :=
  getMb p b t m >>= fun mb0 =>
    if mb0.type = 0 then
      updMb p b t m (fun mb => { mb with mvX := 0, mvY := 0 }) >>= fun _ => pure pred
    else
      match (if bd.inheritMv then ref? else none) with
      | some ref => inheritVector p b t m bd ref >>= fun _ => pure pred
      | none => readDeltas pred >>= fun v =>
          updMb p b t m (fun mb => { mb with mvX := v.1, mvY := v.2 }) >>= fun _ => pure v

/-- One macroblock under INDEO5; the result is the new predictor. -/
def mbInfo5 (p b t : Nat) (bd : Band) (tl : Tile) (m x y : Nat) (pred : Int × Int) : M (Int × Int) :=
  refMb tl m >>= fun ref? =>
  updMb p b t m (fun mb => { mb with xpos := x, ypos := y, bufOffs := y * bd.pitch + x }) >>= fun _ =>
  readFlag >>= fun empty =>
  (if empty then
    look State.alwaysQDelta5 >>= fun always => emptyMbInfo p b t m bd always ref? >>= fun _ => pure pred
   else
    mbTypeAndCbp p b t m bd (mbType5 bd ref?) >>= fun _ => mbQDelta5 p b t m bd ref? >>= fun _ =>
    mbVector5 p b t m bd ref? pred) >>= fun pred' =>
  checkMbWindow p b t m bd >>= fun _ => pure pred'

/-! ### DECMBINFO -/

/-- The macroblocks of a tile in raster order; the predictor starts at 0 and carries from one to the next. -/
def mbInfos (one : Nat → Nat → Nat → Int × Int → M (Int × Int)) : List (Nat × Nat × Nat) → Int × Int → M Unit
  | [], _ => done
  | (m, x, y) :: rest, pred => one m x y pred >>= fun pred' => mbInfos one rest pred'

/-- What INDEO5 refuses before the loop (R297 (a); log 27). -/
def inheritsWithoutRef (bd : Band) (tl : Tile) : Bool :=
  tl.refTile.isNone && ((bd.qdeltaPresent && bd.inheritQdelta) || bd.inheritMv)

/-- DECMBINFO's pseudocode. -/
def decodeMbInfo (p b t : Nat) : M Unit :=
  getBand p b >>= fun bd => getTile p b t >>= fun tl => look (fun s => s.params.codec) >>= fun codec =>
  raiseIf (!countMatches tl bd.mbSize) .geometryMismatch >>= fun _ =>
  (match codec with
   | .indeo4 => mbInfos (mbInfo4 p b t bd tl) (mbPositions tl bd.mbSize) (0, 0)
   | .indeo5 =>
     raiseIf (inheritsWithoutRef bd tl) .badHeader >>= fun _ =>
       mbInfos (mbInfo5 p b t bd tl) (mbPositions tl bd.mbSize) (0, 0)) >>= fun _ =>
  alignBits

/-- DECMBINFO (R296, R297). -/
def execDecmbinfo (p b : BitVec 2) (s : State) : Host.Outcome State Fault Refusal :=
  command (.decmbinfo p b) (checkTile p.toNat b.toNat s.opr.t) (decodeMbInfo p.toNat b.toNat s.opr.t) s

end Sys2Proof.Machine
end

