-- ==== Sys2Proof/Machine/FrameCmds.lean ====
section
/-! DEFINITION. The frame engine: run-value corrections and DECBAND (44_coeff_dequant.md R290 to R292), the rotation
(45_frame_engine.md R360 to R362), output and recomposition (R380 to R383), the frame sequence (R370, R371) and RESET
(70_reset_and_hazards.md R440). -/

namespace Sys2Proof.Machine

/-! ### Run-value corrections (R290, R291) -/

/-- The exchange of two symbols' names: `a` becomes `b` and `b` becomes `a` (`sym ^ a ^ b` where `sym` is one of
them, R290). -/
def swapSym (a b sym : Byte) : Byte := if a = sym ∨ b = sym then sym ^^^ a ^^^ b else sym

/-- The exchange of two entries of a table. -/
def swapEntries {α : Type} (v : Vector α 256) (a b : Byte) : Vector α 256 :=
  Vector.ofFn fun i =>
    if i.val = a.toNat then v[b.toNat]'b.isLt
    else if i.val = b.toNat then v[a.toNat]'a.isLt
    else v[i]

/-- One correction pair (R290). -/
def correctMap (m : RvMap) (pair : Byte × Byte) : RvMap where
  eobSym := swapSym pair.1 pair.2 m.eobSym
  escSym := swapSym pair.1 pair.2 m.escSym
  runtab := swapEntries m.runtab pair.1 pair.2
  valtab := swapEntries m.valtab pair.1 pair.2

/-- The correction pairs of a band, in order. -/
def Band.corrPairs (bd : Band) : List (Byte × Byte) :=
  (List.range bd.numCorr).map fun i => (bd.corr[2 * i]?.getD 0, bd.corr[2 * i + 1]?.getD 0)

/-- Applies correction pairs in the order listed (R290). -/
def correctAll (m : RvMap) (pairs : List (Byte × Byte)) : RvMap := pairs.foldl correctMap m

/-- Writes run-value map `i`. -/
def State.updRvmap (s : State) (i : Fin 9) (f : RvMap → RvMap) : State :=
  { s with rvmaps := s.rvmaps.set i (f s.rvmaps[i]) }

/-- Runs `body` with the band's corrections applied, and undoes them on every exit (R291, R292). -/
def withCorrections (bd : Band) (body : M Unit) : M Unit :=
  update (fun s => s.updRvmap bd.rvmapSel fun m => correctAll m bd.corrPairs) >>= fun _ =>
    finally' body fun s => s.updRvmap bd.rvmapSel fun m => correctAll m bd.corrPairs.reverse

/-! ### DECBAND (R292) -/

/-- A tile that is not empty: its size, its macroblocks, its blocks and the size check; the result is the next
`pos`. -/
def codedTile (p b t pos : Nat) : M Nat :=
  readTileSize >>= fun size =>
  update (fun s => s.updTile p b t fun tl => { tl with dataSize := BitVec.ofNat 24 size }) >>= fun _ =>
  raiseIf (decide (size = 0)) .tileSizeMismatch >>= fun _ =>
  sub (checkTile p b t) (decodeMbInfo p b t) >>= fun _ =>
  sub (checkTile p b t) (decodeTileBlocks p b t) >>= fun _ =>
  look (fun s => s.br.index) >>= fun index =>
  raiseIf (decide ((index - pos) / 8 ≠ size)) .tileSizeMismatch >>= fun _ => pure (pos + 8 * size)

/-- One tile of a band; the result is the next `pos`. -/
def bandTile (p b t pos : Nat) : M Nat :=
  getBand p b >>= fun bd => getTile p b t >>= fun tl =>
  raiseIf (decide (tl.mbSize ≠ bd.mbSize)) .geometryMismatch >>= fun _ =>
  readFlag >>= fun empty =>
  update (fun s => s.updTile p b t fun tl => { tl with isEmpty := empty }) >>= fun _ =>
    if empty then sub (checkTile p b t) (emptyTile p b t) >>= fun _ => pure pos
    else codedTile p b t pos

/-- The tiles of a band in order. -/
def bandTiles (p b : Nat) : List Nat → Nat → M Unit
  | [], _ => done
  | t :: ts, pos => bandTile p b t pos >>= fun pos' => bandTiles p b ts pos'

/-- What becomes of an empty band (R292, `P_EMPTY_BAND`). -/
def emptyBand (p b : Nat) : M Unit :=
  look (fun s => s.params.emptyBand) >>= fun policy =>
    match policy with
    | .keep => alignBits
    | .zero => update (fun s => s.setBuffer p b s.rot.dstBuf []) >>= fun _ => alignBits
    | .error => raise .badHeader

/-- The buffers DECBAND selects for a band (R292). -/
def selectBuffers (s : State) (bd : Band) : Band :=
  if s.params.codec = .indeo4 ∧ s.frameType = 3 then
    { bd with buf := some s.rot.dstBuf, refBuf := some s.rot.bRefBuf, bRefBuf := some s.rot.refBuf }
  else { bd with buf := some s.rot.dstBuf, refBuf := some s.rot.refBuf, bRefBuf := none }

/-- DECBAND's pseudocode (R292). -/
def decodeBand (p b : Nat) : M Unit :=
  look (fun s => s.hasBuffer p b s.rot.dstBuf) >>= fun ok => raiseIf (!ok) .noReference >>= fun _ =>
  update (fun s => s.updBand p b (selectBuffers s)) >>= fun _ =>
  sub (checkBandStream p b) (bandHeader p b) >>= fun _ =>
  getBand p b >>= fun bd =>
    if bd.isEmpty then emptyBand p b
    else
      look (fun s => s.br.index) >>= fun pos =>
      withCorrections bd (bandTiles p b (List.range bd.numTiles) pos) >>= fun _ => alignBits

/-- The head check of DECBAND: the band, after allocation (R108, R280; log 19). -/
def checkDecband (p b : Nat) (s : State) : Option ErrKind :=
  orBadState (s.hasBand p b && decide (s.alloc = .allocated))

/-- DECBAND (R292). Afterwards the working state is unspecified (10_state.md R50). -/
def execDecband (p b : BitVec 2) (s : State) : Host.Outcome State Fault Refusal :=
  command (.decband p b) (checkDecband p.toNat b.toNat)
    (finally' (decodeBand p.toNat b.toNat) State.releaseScratch) s

/-! ### Rotation (R360 to R362) -/

/-- A reference frame of INDEO4: INTRA, INTRA1 or INTER (R360). -/
def isRef4 (t : BitVec 3) : Bool := decide (t = 0 ∨ t = 1 ∨ t = 2)

/-- The default `P_ROTATE4` (R360). -/
def rotate4 (prev cur : BitVec 3) (r : Rotation) : Rotation :=
  if isRef4 prev then
    if isRef4 cur then { r with dstBuf := r.refBuf, refBuf := r.dstBuf }
    else { r with dstBuf := r.bRefBuf, refBuf := r.dstBuf, bRefBuf := r.refBuf }
  else r

/-- The buffer index a bit names. -/
def bitIndex (b : Bool) : Fin 4 := if b then 1 else 0

/-- The first half of the default `P_ROTATE5` (R361): what the previous frame's type does. -/
def rotate5Prev (prev : BitVec 3) (r : Rotation) : Rotation :=
  if prev = 0 ∨ prev = 1 then
    { r with bufSwitch := !r.bufSwitch, dstBuf := bitIndex (!r.bufSwitch), refBuf := bitIndex r.bufSwitch }
  else if prev = 2 then
    let ref2 := if r.interScal then r.ref2Buf else 2
    { r with interScal := true, dstBuf := ref2, ref2Buf := r.dstBuf, refBuf := r.dstBuf }
  else r

/-- The second half of the default `P_ROTATE5` (R361): what the new frame's type does. -/
def rotate5Cur (cur : BitVec 3) (r : Rotation) : Rotation :=
  if cur = 0 then { r with bufSwitch := false, interScal := false, dstBuf := 0, refBuf := 1 }
  else if cur = 1 then
    { r with interScal := false, dstBuf := bitIndex r.bufSwitch, refBuf := bitIndex (!r.bufSwitch) }
  else r

/-- The first of the buffers `k`, `k + 1`, `k + 2`, `k + 3` that is not taken. -/
def freeIndex (taken : List (Fin 4)) (k : Fin 4) : Fin 4 :=
  ([k, k + 1, k + 2, k + 3].find? fun j => !taken.contains j).getD k

/-- The rotation with the destination apart from the references a frame of the codec uses (20_memory.md R93; R363): a
reference that is the destination, or under INDEO4 one that is another, moves to the next free buffer. -/
def Rotation.apart (codec : Codec) (r : Rotation) : Rotation :=
  let ref := freeIndex [r.dstBuf] r.refBuf
  match codec with
  | .indeo4 => { r with refBuf := ref, bRefBuf := freeIndex [r.dstBuf, ref] r.bRefBuf }
  | .indeo5 => { r with refBuf := ref }

/-- `advance(prev, cur, s)` (R362), by the codec's rotation parameter. What R93 says the rotation guarantees holds of every
value of it (log 6). -/
def advance (p : Params) (prev cur : BitVec 3) (r : Rotation) : Rotation :=
  match p.codec with
  | .indeo4 =>
    match p.rotate4 with
    | .standard => rotate4 prev cur r
    | .other n => (Config.otherRotate4 n prev cur r).apart .indeo4
  | .indeo5 =>
    match p.rotate5 with
    | .standard => rotate5Cur cur (rotate5Prev prev r)
    | .other n => (Config.otherRotate5 n prev cur r).apart .indeo5

/-- SWITCHBUF's effect. -/
def State.switchBuf (s : State) : State :=
  { s with rot := advance s.params s.prevFrameType s.frameType s.rot }

/-- SWITCHBUF (R360, R361). -/
def execSwitchbuf (s : State) : Host.Outcome State Fault Refusal :=
  command .switchbuf noCheck (update State.switchBuf) s

/-! ### Output (R380 to R383) -/

/-- The output plane of plane `p` (R380, R383): `OUT[0]` for 0, `OUT[2]` for 1, `OUT[1]` for 2. -/
def outTarget (p : Nat) : Fin 3 := if p = 0 then 0 else if p = 1 then 2 else 1

/-- A sample an output command reads from buffer `k` of band `(p, b)`; a draw beyond the buffer (log 17). -/
def State.outSample (s : State) (p b k a : Nat) : Int :=
  if a < s.bandSize p b ∧ s.hasBuffer p b k then (s.sample p b k a).toInt
  else (Config.freeSample (s.draws + (a * 8 + b))).toInt

/-- The draws an output command may use, reading addresses below `limit` of the bands `bs` of plane `p`. -/
def State.outDraws (s : State) (p : Nat) (bs : List Nat) (limit : Nat) : Nat :=
  if bs.all fun b => decide (limit ≤ s.bandSize p b) then 0 else 8 * limit

/-- The pixels of an area, row by row: (x, y). -/
def pixels (w h : Nat) : List (Nat × Nat) := (List.range h).flatMap fun y => (List.range w).map fun x => (x, y)

/-- A sample as an output byte (R380): the bias is added and the sum clipped. -/
def outPixel (v : Int) : Byte := clipU8 (v + 128)

/-- OUTPLANE's stores for plane `p` (R380). -/
def State.planeStores (s : State) (p : Nat) (pl : Plane) (bd : Band) (k : Nat) : List (Nat × Byte) :=
  (pixels pl.width.toNat pl.height.toNat).map fun e =>
    (e.2 * s.outPitchOf (outTarget p) pl.width.toNat + e.1, outPixel (s.outSample p 0 k (e.2 * bd.pitch + e.1)))

/-- OUTPLANE's effect (R380); nothing is written where the band has no buffer selected. -/
def State.outputPlane (s : State) (p : Nat) : State :=
  match s.plane? p, s.band? p 0 with
  | some pl, some bd =>
    match bd.buf with
    | none => s
    | some k =>
      { s.setOut (outTarget p) (storeBytes (s.outPlane (outTarget p)) (s.planeStores p pl bd k)) with
        draws := s.draws + s.outDraws p [0] ((pl.height.toNat - 1) * bd.pitch + pl.width.toNat) }
  | _, _ => s

/-- OUTPLANE (R380). -/
def execOutplane (p b : BitVec 2) (s : State) : Host.Outcome State Fault Refusal :=
  command (.outplane p b) (checkBand p.toNat 0) (update fun s => s.outputPlane p.toNat) s

/-- The buffers plane 0's four bands have selected, when all have one (R381). -/
def State.lumaBufs (s : State) : Option (Fin 4 × Fin 4 × Fin 4 × Fin 4) :=
  match s.planes[0].bands with
  | [b0, b1, b2, b3] =>
    match b0.buf, b1.buf, b2.buf, b3.buf with
    | some k0, some k1, some k2, some k3 => some (k0, k1, k2, k3)
    | _, _, _, _ => none
  | _ => none

/-- The head check of the recomposition commands (R381, R382). -/
def checkRecomp (s : State) : Option ErrKind := orBadState s.lumaBufs.isSome

/-- `bk(i, j)` (R381). -/
def State.lumaSample (s : State) (ks : Fin 4 × Fin 4 × Fin 4 × Fin 4) (pitch k i j : Nat) : Int :=
  s.outSample 0 k (match k with | 0 => ks.1 | 1 => ks.2.1 | 2 => ks.2.2.1 | _ => ks.2.2.2) (j * pitch + i)

/-- `PUT(x, y, v)` (R381): outside the picture nothing is written. -/
def put (w h pitch x y : Nat) (v : Int) : List (Nat × Byte) :=
  if x < w ∧ y < h then [(y * pitch + x, outPixel v)] else []

/-- The four stores of one position of the band domain. -/
def putQuad (w h pitch i j : Nat) (q : Int × Int × Int × Int) : List (Nat × Byte) :=
  put w h pitch (2 * i) (2 * j) q.1 ++ put w h pitch (2 * i + 1) (2 * j) q.2.1
    ++ put w h pitch (2 * i) (2 * j + 1) q.2.2.1 ++ put w h pitch (2 * i + 1) (2 * j + 1) q.2.2.2

/-- The Haar recomposition of four samples (R381). -/
def haarQuad (b0 b1 b2 b3 : Int) : Int × Int × Int × Int :=
  (asr (b0 + b1 + b2 + b3 + 2) 2, asr (b0 + b1 - b2 - b3 + 2) 2,
   asr (b0 - b1 + b2 - b3 + 2) 2, asr (b0 - b1 - b2 + b3 + 2) 2)

/-- The default 5/3 recomposition at `(i, j)` (R382): `bk` gives band `k`'s sample at a position. -/
def quad53 (w h : Nat) (bk : Nat → Nat → Nat → Int) (i j : Nat) : Int × Int × Int × Int :=
  let l := i - 1
  let r := if 2 * i + 2 < w then i + 1 else i
  let u := j - 1
  let d := if 2 * j + 2 < h then j + 1 else j
  let b0 := bk 0
  let b1 := bk 1
  let b2 := bk 2
  let b3 := bk 3
  let v1 := fun c => b1 c u - 6 * b1 c j + b1 c d
  let h2 := fun q => b2 l q - 6 * b2 i q + b2 r q
  let w3 := fun c => b3 c u - 6 * b3 c j + b3 c d
  let p0 := 16 * b0 i j + 8 * (b1 i u + b1 i j) + 8 * (b2 l j + b2 i j)
    + 4 * (b3 l u + b3 l j + b3 i u + b3 i j)
  let p1 := 8 * (b0 i j + b0 r j) + 4 * (b1 i u + b1 i j + b1 r u + b1 r j) + 4 * h2 j
    + 2 * ((b3 l u + b3 l j) - 6 * (b3 i u + b3 i j) + (b3 r u + b3 r j))
  let p2 := 8 * (b0 i j + b0 i d) + 4 * v1 i + 4 * (b2 l j + b2 i j + b2 l d + b2 i d)
    + 2 * (w3 l + w3 i)
  let p3 := 4 * (b0 i j + b0 r j + b0 i d + b0 r d) + 2 * (v1 i + v1 r) + 2 * (h2 j + h2 d)
    + (w3 l - 6 * w3 i + w3 r)
  (asr p0 6, asr p1 6, asr p2 6, asr p3 6)

/-- Recomposition of plane 0 into `OUT[0]` with a filter that gives the four pixels of a position (R381, R382). -/
def State.recompose (s : State)
    (quad : Nat → Nat → (Nat → Nat → Nat → Int) → Nat → Nat → Int × Int × Int × Int) : State :=
  match s.lumaBufs with
  | none => s
  | some ks =>
    let w := s.planes[0].width.toNat
    let h := s.planes[0].height.toNat
    let pitch := s.bandPitch 0 0
    let stores := (pixels ((w + 1) / 2) ((h + 1) / 2)).flatMap fun e =>
      putQuad w h (s.outPitchOf 0 w) e.1 e.2 (quad w h (s.lumaSample ks pitch) e.1 e.2)
    { s.setOut 0 (storeBytes (s.outPlane 0) stores) with
      draws := s.draws + s.outDraws 0 [0, 1, 2, 3] (((h + 1) / 2 - 1) * pitch + (w + 1) / 2) }

/-- The Haar filter as a recomposition filter. -/
def haarFilter (_ _ : Nat) (bk : Nat → Nat → Nat → Int) (i j : Nat) : Int × Int × Int × Int :=
  haarQuad (bk 0 i j) (bk 1 i j) (bk 2 i j) (bk 3 i j)

/-- `P_RECOMP53`: the filter of R382, or another of the samples of the band domain (92_eei_decisions.md D26). -/
def filter53 (choice : Choice) (w h : Nat) (bk : Nat → Nat → Nat → Int) (i j : Nat) : Int × Int × Int × Int :=
  match choice with
  | .standard => quad53 w h bk i j
  | .other n =>
    let value := Config.otherRecomp53 n w h (fun k i j => if i < (w + 1) / 2 ∧ j < (h + 1) / 2 then bk k i j else 0) i j
    (value 0, value 1, value 2, value 3)

/-- RECOMPHAAR's effect. -/
def State.recompHaar (s : State) : State := s.recompose haarFilter

/-- RECOMP53's effect. -/
def State.recomp53 (s : State) : State := s.recompose (filter53 s.params.recomp53)

/-- RECOMPHAAR (R381). -/
def execRecomphaar (s : State) : Host.Outcome State Fault Refusal :=
  command .recomphaar checkRecomp (update State.recompHaar) s

/-- RECOMP53 (R382). -/
def execRecomp53 (s : State) : Host.Outcome State Fault Refusal :=
  command .recomp53 checkRecomp (update State.recomp53) s

/-! ### The frame sequence (R370, R371) -/

/-- `FSTEP <- f`. -/
def goTo (f : FStep) : M Unit := update fun s => { s with fstep := f }

/-- `buf_invalid[dst_buf] <- v`. -/
def markDst (v : Bool) : M Unit := update fun s => { s with bufInvalid := s.bufInvalid.set s.rot.dstBuf v }

/-- The bands of plane `p`. -/
def frameBands (p : Nat) : M Unit :=
  look (fun s => match s.plane? p with | some pl => pl.bands.length | none => 0) >>= fun n =>
    forEach (fun b => sub (checkDecband p b) (decodeBand p b)) (List.range n)

/-- The output planes of a frame (R371). -/
def frameOutput : M Unit :=
  look (fun s => (s.hdr.isScalable, s.params.codec)) >>= fun sc =>
  (if sc.1 then
    goTo .recompose >>= fun _ =>
      match sc.2 with
      | .indeo4 => sub checkRecomp (update State.recompHaar)
      | .indeo5 => sub checkRecomp (update State.recomp53)
   else goTo .output >>= fun _ => sub (checkBand 0 0) (update fun s => s.outputPlane 0)) >>= fun _ =>
  goTo .output >>= fun _ =>
  sub (checkBand 2 0) (update fun s => s.outputPlane 2) >>= fun _ =>
  sub (checkBand 1 0) (update fun s => s.outputPlane 1) >>= fun _ =>
  update fun s => { s with outValid := true, fstep := .idle }

/-- A band of a null frame must have a buffer (R371). -/
def needBandBuf (p : Nat) : M Unit := getBand p 0 >>= fun bd => raiseIf bd.buf.isNone .noReference

/-- `if buf_invalid[dst_buf] = 1: raise REF_INVALID`. -/
def checkDstValid : M Unit :=
  look (fun s => s.bufInvalid[s.rot.dstBuf]) >>= fun bad => raiseIf bad .refInvalid

/-- A frame with band data (R371). -/
def codedFrame : M Unit :=
  markDst true >>= fun _ => goTo .bands >>= fun _ =>
  forEach frameBands [0, 1, 2] >>= fun _ => markDst false >>= fun _ =>
  checkDstValid >>= fun _ => frameOutput

/-- A null frame (R371): the previous frame's output is reused. -/
def nullFrame : M Unit :=
  look (fun s => s.hdr.isScalable) >>= fun scalable => raiseIf scalable .unsupported >>= fun _ =>
  forEach needBandBuf [0, 1, 2] >>= fun _ => checkDstValid >>= fun _ => goTo .idle

/-- The frame carries band data (R371). -/
def State.nonNull (s : State) : Bool :=
  match s.params.codec with
  | .indeo4 => decide (s.frameType.toNat < 5)
  | .indeo5 => decide (s.frameType ≠ 4)

/-- What follows the picture header (R371). -/
def frameBody : M Unit :=
  look (fun s => s.hdr.gopInvalid) >>= fun gopBad => raiseIf gopBad .gopInvalid >>= fun _ =>
  look (fun s => decide (s.params.codec = .indeo4) && decide (s.frameType = 6)) >>= fun nullLast =>
    if nullLast then goTo .idle
    else
      look (fun s => s.hdr.gopFlags.getLsbD 5) >>= fun locked => raiseIf locked .unsupported >>= fun _ =>
      look (fun s => decide (s.alloc = .uninit)) >>= fun unalloc => raiseIf unalloc .notAllocated >>= fun _ =>
      goTo .switch >>= fun _ => update State.switchBuf >>= fun _ =>
      look State.nonNull >>= fun nonNull => if nonNull then codedFrame else nullFrame

/-- DECFRAME's steps in FULL mode after the chunk is bound (R371). -/
def frameSteps : M Unit :=
  update (fun s => { s with frameAborted := false }) >>= fun _ => goTo .picHdr >>= fun _ =>
  sub needStream pictureHeader >>= fun _ => frameBody

/-- `BR.buf <- chunk; BR.size_bits <- 8 * len; BR.index <- 0`. -/
def State.bind (s : State) (chunk : List Byte) (len : Nat) : State := { s with br := ⟨some chunk, 8 * len, 0⟩ }

/-- DECFRAME's pseudocode (R371), with the frame abort of R410 and, in FULL mode, the working state unspecified
afterwards (10_state.md R50). -/
def decodeFrame (o : Opr) : M Unit := fun before =>
  let bound := before.bind o.chunk o.len
  match o.mode with
  | .bind => .ok () bound
  | .full => onError (finally' frameSteps State.releaseScratch) (frameAbort before) bound

/-- DECFRAME (R371). -/
def execDecframe (s : State) : Host.Outcome State Fault Refusal :=
  command .decframe noCheck (decodeFrame s.opr) s

/-! ### RESET (R440) -/

/-- RESET's effect: every element of R441 at its reset value. The parameters are unchanged (R440), and so are the model's own
fields: the port, the operand record, the host's output pitches and the draw counter (log 34). -/
def State.resetState (s : State) : State :=
  { State.resetWith s.params with outPitch := s.outPitch, port := s.port, opr := s.opr, draws := s.draws }

/-- RESET (R440). -/
def execReset (s : State) : Host.Outcome State Fault Refusal := command .reset noCheck (update State.resetState) s

end Sys2Proof.Machine
end

