-- ==== Sys2Proof/Machine/Dispatch.lean ====
section
/-! DEFINITION. One arm for each command: its meaning. -/

namespace Sys2Proof.Machine

/-- The outcome of a command. -/
def exec (i : Instr) (s : State) : Host.Outcome State Fault Refusal :=
  match i with
  | .getbits n => Sys2Proof.Machine.execGetbits n s
  | .getbitslong n => Sys2Proof.Machine.execGetbitslong n s
  | .getbits64 n => Sys2Proof.Machine.execGetbits64 n s
  | .getsbits n => Sys2Proof.Machine.execGetsbits n s
  | .getsbitslong n => Sys2Proof.Machine.execGetsbitslong n s
  | .showbits n => Sys2Proof.Machine.execShowbits n s
  | .showbitslong n => Sys2Proof.Machine.execShowbitslong n s
  | .skipbits n => Sys2Proof.Machine.execSkipbits n s
  | .skipbitslong n => Sys2Proof.Machine.execSkipbitslong n s
  | .align => Sys2Proof.Machine.execAlign s
  | .getvlc2 t d b => Sys2Proof.Machine.execGetvlc2 t d b s
  | .bitscount => Sys2Proof.Machine.execBitscount s
  | .bitsleft => Sys2Proof.Machine.execBitsleft s
  | .huffbuild t => Sys2Proof.Machine.execHuffbuild t s
  | .initvlc t => Sys2Proof.Machine.execInitvlc t s
  | .dechuffdesc t w c => Sys2Proof.Machine.execDechuffdesc t w c s
  | .haar8 => Sys2Proof.Machine.execHaar8 s
  | .haarrow8 => Sys2Proof.Machine.execHaarrow8 s
  | .haarcol8 => Sys2Proof.Machine.execHaarcol8 s
  | .slant8 => Sys2Proof.Machine.execSlant8 s
  | .slantrow8 => Sys2Proof.Machine.execSlantrow8 s
  | .slantcol8 => Sys2Proof.Machine.execSlantcol8 s
  | .copy8 => Sys2Proof.Machine.execCopy8 s
  | .haar4 => Sys2Proof.Machine.execHaar4 s
  | .haarrow4 => Sys2Proof.Machine.execHaarrow4 s
  | .haarcol4 => Sys2Proof.Machine.execHaarcol4 s
  | .slant4 => Sys2Proof.Machine.execSlant4 s
  | .slantrow4 => Sys2Proof.Machine.execSlantrow4 s
  | .slantcol4 => Sys2Proof.Machine.execSlantcol4 s
  | .dchaar8 => Sys2Proof.Machine.execDchaar8 s
  | .dchaar4 => Sys2Proof.Machine.execDchaar4 s
  | .dcslant8 => Sys2Proof.Machine.execDcslant8 s
  | .dcslant4 => Sys2Proof.Machine.execDcslant4 s
  | .dcrowslant8 => Sys2Proof.Machine.execDcrowslant8 s
  | .dcrowslant4 => Sys2Proof.Machine.execDcrowslant4 s
  | .dccolslant8 => Sys2Proof.Machine.execDccolslant8 s
  | .dccolslant4 => Sys2Proof.Machine.execDccolslant4 s
  | .dccopy8 => Sys2Proof.Machine.execDccopy8 s
  | .mc8nd t => Sys2Proof.Machine.execMc8nd t s
  | .mc8d t => Sys2Proof.Machine.execMc8d t s
  | .mc4nd t => Sys2Proof.Machine.execMc4nd t s
  | .mc4d t => Sys2Proof.Machine.execMc4d t s
  | .mcavg8nd t t2 => Sys2Proof.Machine.execMcavg8nd t t2 s
  | .mcavg8d t t2 => Sys2Proof.Machine.execMcavg8d t t2 s
  | .mcavg4nd t t2 => Sys2Proof.Machine.execMcavg4nd t t2 s
  | .mcavg4d t t2 => Sys2Proof.Machine.execMcavg4d t t2 s
  | .dequant => Sys2Proof.Machine.execDequant s
  | .decblk p b => Sys2Proof.Machine.execDecblk p b s
  | .dcblk p b => Sys2Proof.Machine.execDcblk p b s
  | .dectileblks p b => Sys2Proof.Machine.execDectileblks p b s
  | .emptytile p b => Sys2Proof.Machine.execEmptytile p b s
  | .decmbinfo p b => Sys2Proof.Machine.execDecmbinfo p b s
  | .decband p b => Sys2Proof.Machine.execDecband p b s
  | .tilesize => Sys2Proof.Machine.execTilesize s
  | .decframe => Sys2Proof.Machine.execDecframe s
  | .pichdr => Sys2Proof.Machine.execPichdr s
  | .initplanes => Sys2Proof.Machine.execInitplanes s
  | .inittiles => Sys2Proof.Machine.execInittiles s
  | .switchbuf => Sys2Proof.Machine.execSwitchbuf s
  | .recomphaar => Sys2Proof.Machine.execRecomphaar s
  | .recomp53 => Sys2Proof.Machine.execRecomp53 s
  | .outplane p b => Sys2Proof.Machine.execOutplane p b s
  | .bandhdr p b => Sys2Proof.Machine.execBandhdr p b s
  | .gophdr => Sys2Proof.Machine.execGophdr s
  | .reset => Sys2Proof.Machine.execReset s

end Sys2Proof.Machine
end

