-- ==== Sys2Proof/Machine/Fetch.lean ====
section
/-! DEFINITION. The command port (60_exceptions.md R415; 30_encoding.md R100, R110): taking the next command, and a
command placed there (log 2). -/

namespace Sys2Proof.Machine

/-- The next command's word, and the state with its operand record read and the command taken off the port. -/
def State.nextCommand (s : State) : Option (CommandWord × State) :=
  match s.port with
  | [] => none
  | c :: rest => some (c.cw, { s with opr := c.opr, port := rest })

/-- A word that names no command: ILLEGAL_COMMAND, and only `STATUS.ERR` changes (30_encoding.md R104). -/
def State.illegalWord (s : State) : State := s.refuse .illegalCommand

/-- A command at the head of the port. -/
def State.pushCommand (s : State) (c : HostCmd) : State := { s with port := c :: s.port }

/-- The command word of `nbits` bits. -/
def wordOf (nbits w : Nat) : CommandWord := BitVec.ofNat 32 (w % 2 ^ nbits)

end Sys2Proof.Machine
end

