-- ==== Sys2Proof/Machine/Step.lean ====
section
/-! DEFINITION. One step: the engine takes the next command from the port and runs it to completion (20_memory.md R90,
R91; 70_reset_and_hazards.md R442). -/

namespace Sys2Proof.Machine

/-- What a command word does: the command it names, or the ILLEGAL_COMMAND error (30_encoding.md R104). -/
def runWord (cw : CommandWord) (s : State) : Host.Outcome State Fault Refusal :=
  match decode cw with
  | .ok i => exec i s
  | .error _ => .next s.illegalWord

/-- One step. With no command at the port the engine waits (R442). -/
def step (s : State) : Host.Outcome State Fault Refusal :=
  match s.nextCommand with
  | none => .next s
  | some (cw, s') => runWord cw s'

/-- The state with the command word `w` of `nbits` bits as the next command, its operand record the one the engine holds
(log 2). -/
def State.withFetchWord (s : State) (nbits w : Nat) : State := s.pushCommand ⟨wordOf nbits w, s.opr⟩

end Sys2Proof.Machine
end

