-- ==== Sys2Proof/Safety.lean ====
section
/-! DEFINITION. What holds of the engine between commands: the invariants the spec states, as predicates on the state. -/

namespace Sys2Proof.Machine

/-- The memory has its canonical form. -/
abbrev State.MemoryOk (s : State) : Prop := s.mem.wf = true

/-- `BR.index <= BR.size_bits + P_PAD_BITS` (10_state.md R34; 40_bitreader.md R141). -/
def State.CursorOk (s : State) : Prop := s.br.index ≤ s.br.sizeBits + s.params.padBits

/-- Under INDEO4 the destination and the two references are three different buffers (45_frame_engine.md R363). What R363
says of INDEO5 holds of the runs in which every frame is rotated, not of every state (log 40). -/
def State.RotationOk (s : State) : Prop :=
  s.params.codec = .indeo4 →
    s.rot.dstBuf ≠ s.rot.refBuf ∧ s.rot.dstBuf ≠ s.rot.bRefBuf ∧ s.rot.refBuf ≠ s.rot.bRefBuf

/-- The predefined tables and the run-value maps are those the parameters give (10_state.md R42, R43). -/
def State.TablesOk (s : State) : Prop :=
  s.predefMb = predefMbTables s.params ∧ s.predefBlk = predefBlkTables s.params ∧ s.rvmaps = s.params.rvmaps

/-- The sequencer is idle between commands (10_state.md R33). -/
def State.IdleOk (s : State) : Prop := s.fstep = .idle

/-- The geometry INITPLANES gives a band of alignment `a` (45_frame_engine.md R314). -/
def Band.GeometryOk (a : Nat) (bd : Band) : Prop :=
  0 < bd.width ∧ bd.width ≤ bd.pitch ∧ bd.pitch % a = 0 ∧ 0 < bd.height ∧ bd.height ≤ bd.aheight ∧ bd.aheight % a = 0

/-- Every band keeps the geometry of INITPLANES, and the bands of the two chroma planes have one geometry
(45_frame_engine.md R314, R312, R352). -/
def State.GeometryOk (s : State) : Prop :=
  (∀ p b bd, s.band? p b = some bd → bd.GeometryOk (planeAlign p)) ∧
  ∀ b x y, s.band? 1 b = some x → s.band? 2 b = some y →
    y.width = x.width ∧ y.height = x.height ∧ y.pitch = x.pitch ∧ y.aheight = x.aheight

end Sys2Proof.Machine
end

