-- ==== Sys2Proof/Certificates/Slice0/Obligations.lean ====
section
/-! DEFINITION. The statements for the provers, and the words they are written in. -/

namespace Sys2Proof.Claims

open Sys2Proof.Machine

/-! ### Words of the statements -/

/-- Each of the next `n` bits is a bit of the stream, none a draw (20_memory.md R81). -/
abbrev streamHas (s : State) (n : Nat) : Prop := ∀ k, k < n → (s.bsBit (s.br.index + k)).isSome = true

/-- The field of `n` bits that begins `k` bits after the cursor, assembled as 20_memory.md R82 says. -/
def field (s : State) (k n : Nat) : Nat := (s.moved k).peek n

/-- The cursor moved to bit `i`. -/
def atBit (s : State) (i : Nat) : BitReader := { s.br with index := i }

/-- The next multiple of 8. -/
def aligned (i : Nat) : Nat := (i + 7) / 8 * 8

/-- A read of bits that ends at position `i` stays within the padding (40_bitreader.md R140, R141). -/
abbrev within (s : State) (i : Nat) : Prop := i ≤ s.br.sizeBits + s.params.padBits

/-- A byte list as one little-endian integer (20_memory.md R82). -/
def leInteger : List Byte → Nat
  | [] => 0
  | b :: bs => b.toNat + 256 * leInteger bs

/-- The bit count of the commands of format BR (30_encoding.md R101). -/
def bitCount : Instr → Option Nat
  | .getbits n | .getbitslong n | .getbits64 n | .getsbits n | .getsbitslong n
  | .showbits n | .showbitslong n | .skipbits n | .skipbitslong n => some n.toNat
  | _ => none

/-- The commands of 40_bitreader.md. -/
def isBitReader : Instr → Bool
  | .align | .bitscount | .bitsleft | .getvlc2 _ _ _ => true
  | i => (bitCount i).isSome

/-- The INVTX commands and their kernels (30_encoding.md R103, R109). -/
def invTxOf : List (Instr × InvTx) :=
  [(.haar8, .haar8), (.haarrow8, .haarrow8), (.haarcol8, .haarcol8), (.slant8, .slant8), (.slantrow8, .slantrow8),
   (.slantcol8, .slantcol8), (.copy8, .copy8), (.haar4, .haar4), (.haarrow4, .haarrow4), (.haarcol4, .haarcol4),
   (.slant4, .slant4), (.slantrow4, .slantrow4), (.slantcol4, .slantcol4)]

/-- The DCTX commands and their kernels (30_encoding.md R103, R109). -/
def dcTxOf : List (Instr × DcTx) :=
  [(.dchaar8, .dchaar8), (.dchaar4, .dchaar4), (.dcslant8, .dcslant8), (.dcslant4, .dcslant4),
   (.dcrowslant8, .dcrowslant8), (.dcrowslant4, .dcrowslant4), (.dccolslant8, .dccolslant8),
   (.dccolslant4, .dccolslant4), (.dccopy8, .dccopy8)]

/-- What a DC transform writes at row `r`, column `c` (42_transforms.md R231 to R237). -/
def dcClosed (tx : DcTx) (dc : Int) (r c : Nat) : Int :=
  match tx with
  | .dchaar8 | .dchaar4 => dc / 8
  | .dcslant8 | .dcslant4 => (dc + 1) / 2
  | .dcrowslant8 | .dcrowslant4 => if r = 0 then (dc + 1) / 2 else 0
  | .dccolslant8 | .dccolslant4 => if c = 0 then (dc + 1) / 2 else 0
  | .dccopy8 => if r = 0 ∧ c = 0 then dc else 0

/-- The inverse transforms whose output on a DC-only block is that of their DC transform (42_transforms.md R240,
R241; the copy by R216 and R237). -/
def dcPairs : List (InvTx × DcTx) :=
  [(.haar8, .dchaar8), (.slant8, .dcslant8), (.slantrow8, .dcrowslant8), (.slantcol8, .dccolslant8),
   (.copy8, .dccopy8), (.haar4, .dchaar4), (.slant4, .dcslant4), (.slantrow4, .dcrowslant4),
   (.slantcol4, .dccolslant4)]

/-- The coefficient vector with only a DC value. -/
def dcOnly (dc : Coef) : Vector Coef 64 := (Vector.replicate 64 0).set 0 dc

/-- The flags that name column 0 alone. -/
def firstColumn : Vector Bool 8 := (Vector.replicate 8 false).set 0 true

/-- The band `(p, b)` exists and has buffer `k`. -/
abbrev hasTarget (s : State) (p b k : Nat) : Bool := s.hasBand p b && s.hasBuffer p b k

/-- Address `a` of buffer `k` of band `(p, b)` is in the block of `n * n` samples at `off` of buffer `k'` of band
`(p', b')`. -/
def inBlock (p' b' k' : Nat) (off : Int) (pitch n : Nat) (p b k a : Nat) : Prop :=
  (p = p' ∧ b = b' ∧ k = k') ∧ ∃ r c, r < n ∧ c < n ∧ a = blockAddr off pitch r c

/-- Every sample outside the block is as before. -/
def onlyBlock (s t : State) (p' b' k' : Nat) (off : Int) (pitch n : Nat) : Prop :=
  ∀ p b k a, ¬inBlock p' b' k' off pitch n p b k a → t.sample p b k a = s.sample p b k a

/-- The single-reference MC commands: block size, and whether the samples are added (30_encoding.md R109). -/
def mcOf : List ((BitVec 2 → Instr) × Nat × Bool) :=
  [(.mc8nd, 8, false), (.mc8d, 8, true), (.mc4nd, 4, false), (.mc4d, 4, true)]

/-- The averaging MC commands. -/
def mcAvgOf : List ((BitVec 2 → BitVec 2 → Instr) × Nat × Bool) :=
  [(.mcavg8nd, 8, false), (.mcavg8d, 8, true), (.mcavg4nd, 4, false), (.mcavg4d, 4, true)]

/-- The prediction of interpolation type `t` at address `a` of a buffer (43_motion_comp.md R252). -/
def taps (s : State) (p b k pitch a : Nat) (t : BitVec 2) : Int :=
  let x := fun d => (s.sample p b k (a + d)).toInt
  if t = 0 then x 0
  else if t = 1 then (x 0 + x 1) / 2
  else if t = 2 then (x 0 + x pitch) / 2
  else (x 0 + x 1 + x pitch + x (pitch + 1)) / 4

/-- The window test of 43_motion_comp.md R251 for a block of `n * n` samples and an extra reach. -/
abbrev windowOk (bd : Band) (off : Int) (n extra : Nat) : Prop :=
  0 ≤ off ∧ off ≤ (bd.pitch * bd.aheight : Nat) - ((bd.pitch : Int) * ((n : Int) - 1) + n) - extra

/-- The extra reach of an interpolation type (43_motion_comp.md R251). -/
def extraReach (bd : Band) (t : BitVec 2) : Nat := (if 1 < t.toNat then bd.pitch else 0) + t.toNat % 2

/-- The windows of an MC command with the operands `o` (43_motion_comp.md R251). -/
abbrev mcWindows (bd : Band) (o : Opr) (n : Nat) (t : BitVec 2) : Prop :=
  windowOk bd o.dst.off n 0 ∧ windowOk bd o.roff1 n (extraReach bd t)

/-- The destination and the first reference of an MC command are two buffers that exist (43_motion_comp.md R253). -/
abbrev mcBuffers (s : State) : Prop :=
  s.hasBuffer s.opr.dst.p s.opr.dst.b s.opr.dst.k = true ∧ s.hasBuffer s.opr.dst.p s.opr.dst.b s.opr.k1 = true ∧
    s.opr.dst.k ≠ s.opr.k1

/-- The same of the second reference. -/
abbrev mcBuffers2 (s : State) : Prop :=
  mcBuffers s ∧ s.hasBuffer s.opr.dst.p s.opr.dst.b s.opr.k2 = true ∧ s.opr.dst.k ≠ s.opr.k2

/-- The address of row `r`, column `c` of the block at `off` in a band. -/
def cell (bd : Band) (off : Int) (r c : Nat) : Nat := blockAddr off bd.pitch r c

/-- The output byte of a sample (45_frame_engine.md R380). -/
def pixel (v : Int) : Byte := BitVec.ofInt 8 (min (max (v + 128) 0) 255)

/-- Where the recomposition of one line puts its low and high band: the sample at an even and at an odd place, of the
values at a place and its clamped neighbours (45_frame_engine.md R382). -/
def lineEven (low hiLeft hi : Int) : Int := 4 * low + 2 * (hiLeft + hi)

/-- The odd place. -/
def lineOdd (low lowRight hiLeft hi hiRight : Int) : Int := 2 * (low + lowRight) + (hiLeft - 6 * hi + hiRight)

/-- The codes `a` and then `b` stand in the stream `k` bits after the cursor, both in a table of 13 index bits that GETVLC2
reads at depth 1 (44_coeff_dequant.md, preamble). -/
abbrev codesAhead (s : State) (tbl : VlcTable) (k : Nat) (a b : VlcCode) : Prop :=
  tbl.rootBits = 13 ∧ prefixFree tbl.codes = true ∧ a ∈ tbl.codes ∧ b ∈ tbl.codes ∧
    a.bits.length ≤ 13 ∧ b.bits.length ≤ 13 ∧
    ∀ j, j < a.bits.length + b.bits.length → s.bsBit (s.br.index + (k + j)) = (a.bits ++ b.bits)[j]?

/-- The blocks of a band's macroblock are `n * n`, and block `off` of them lies in the band (44_coeff_dequant.md R281). -/
abbrev blockIn (bd : Band) (off n : Nat) : Prop := (off : Int) + ((n : Int) - 1) * bd.pitch + n ≤ (bd.pitch * bd.aheight : Nat)

/-- What a band needs before a block or tile command (44_coeff_dequant.md R280), with its descriptor. -/
abbrev ready (s : State) (p b : Nat) (bd : Band) : Prop :=
  s.band? p b = some bd ∧ s.alloc = .allocated ∧ s.hasBuffer p b s.rot.dstBuf = true

/-- The rotation states that a list of frame types leads through (45_frame_engine.md R362, R364). -/
def rotations (p : Params) : BitVec 3 → Rotation → List (BitVec 3) → List Rotation
  | _, _, [] => []
  | prev, r, cur :: rest => advance p prev cur r :: rotations p cur (advance p prev cur r) rest

/-- The Haar butterfly on a line of `n` values, 4 or 8, at place `k` (42_transforms.md R202); `IHAAR8` halves the sum and
the difference of the doubled `x0` and `x1`, which is exact. -/
def haarLine (n : Nat) (x : Nat → Int) (k : Nat) : Int :=
  let pair := fun (v w : Int) => if k % 2 = 0 then (v + w) / 2 else (v - w) / 2
  if n = 4 then
    match k with
    | 0 | 1 => pair ((x 0 + x 1) / 2) (x 2)
    | _ => pair ((x 0 - x 1) / 2) (x 3)
  else
    match k with
    | 0 | 1 => pair ((x 0 + x 1 + x 2) / 2) (x 4)
    | 2 | 3 => pair ((x 0 + x 1 - x 2) / 2) (x 5)
    | 4 | 5 => pair ((x 0 - x 1 + x 3) / 2) (x 6)
    | _ => pair ((x 0 - x 1 - x 3) / 2) (x 7)

/-- The Slant butterfly on a line of `n` values, 4 or 8, at place `k` (42_transforms.md R203). -/
def slantLine (n : Nat) (x : Nat → Int) (k : Nat) : Int :=
  let up := fun (a b : Int) => (b + 2 * a + 2) / 4 + a
  let down := fun (a b : Int) => (a - 2 * b + 2) / 4 - b
  if n = 4 then
    match k with
    | 0 => x 0 + x 2 + up (x 1) (x 3)
    | 1 => x 0 - x 2 + down (x 1) (x 3)
    | 2 => x 0 - x 2 - down (x 1) (x 3)
    | _ => x 0 + x 2 - up (x 1) (x 3)
  else
    let p := x 3 + (4 * x 1 - x 3 + 4) / 8
    let q := x 1 + (-x 1 - 4 * x 3 + 4) / 8
    match k with
    | 0 => x 0 + q + (x 4 + x 5) + up (p + x 2) (x 7 - x 6)
    | 1 => x 0 + q - (x 4 + x 5) + down (p + x 2) (x 7 - x 6)
    | 2 => x 0 + q - (x 4 + x 5) - down (p + x 2) (x 7 - x 6)
    | 3 => x 0 + q + (x 4 + x 5) - up (p + x 2) (x 7 - x 6)
    | 4 => x 0 - q + (x 4 - x 5) + up (p - x 2) (x 7 + x 6)
    | 5 => x 0 - q - (x 4 - x 5) + down (p - x 2) (x 7 + x 6)
    | 6 => x 0 - q - (x 4 - x 5) - down (p - x 2) (x 7 + x 6)
    | _ => x 0 - q + (x 4 - x 5) - up (p - x 2) (x 7 + x 6)

/-- What a default inverse transform gives at row `r`, column `c` (42_transforms.md R201, R210 to R222): the columns whose
flag is set, then the rows; the 2D Haar forms double the upper left quarter of their input, and the Slant forms halve
with rounding up at the end (R204). -/
def kernelValue (tx : InvTx) (inp : Vector Coef 64) (flags : Vector Bool 8) (r c : Nat) : Int :=
  let n := tx.size
  let x := fun (i j : Nat) => (inp[n * i + j]?.getD 0).toInt
  let flag := fun (j : Nat) => flags[j]?.getD false
  let column := fun (line : Nat → (Nat → Int) → Nat → Int) (y : Nat → Nat → Int) (j i : Nat) =>
    if flag j then line n (fun i' => y i' j) i else 0
  let doubled := fun (i j : Nat) => if i < n / 2 ∧ j < n / 2 then 2 * x i j else x i j
  let half := fun (v : Int) => (v + 1) / 2
  match tx with
  | .haar8 | .haar4 => haarLine n (fun j => column haarLine doubled j r) c
  | .haarrow8 | .haarrow4 => haarLine n (fun j => x r j) c
  | .haarcol8 | .haarcol4 => column haarLine x c r
  | .slant8 | .slant4 => half (slantLine n (fun j => column slantLine x j r) c)
  | .slantrow8 | .slantrow4 => half (slantLine n (fun j => x r j) c)
  | .slantcol8 | .slantcol4 => half (column slantLine x c r)
  | .copy8 => x r c

/-- One coefficient of a coded block: its bits in the stream, its run and its value (44_coeff_dequant.md R285). -/
structure Coefficient where
  bits : List Bool
  run : Nat
  val : Int

/-- A symbol of the run-value map, or the escape with its run and the two parts of its value, each a code of at most 13
bits (44_coeff_dequant.md R285). -/
abbrev isCoefficient (rv : RvMap) (tbl : VlcTable) (x : Coefficient) : Prop :=
  (∃ c ∈ tbl.codes, ∃ k : Fin 256, c.bits.length ≤ 13 ∧ c.sym = k.val ∧ k.val ≠ rv.eobSym.toNat ∧
    k.val ≠ rv.escSym.toNat ∧ x = ⟨c.bits, (rv.runtab[k]).toNat, (rv.valtab[k]).toInt⟩) ∨
  (∃ e ∈ tbl.codes, ∃ r ∈ tbl.codes, ∃ l ∈ tbl.codes, ∃ h ∈ tbl.codes, ∃ run lo hi : Nat,
    (e.bits.length ≤ 13 ∧ r.bits.length ≤ 13 ∧ l.bits.length ≤ 13 ∧ h.bits.length ≤ 13) ∧
    e.sym = rv.escSym.toNat ∧ rv.escSym ≠ rv.eobSym ∧ r.sym = run ∧ l.sym = lo ∧ h.sym = hi ∧
    x = ⟨e.bits ++ r.bits ++ l.bits ++ h.bits, run + 1, toSigned (hi * 64 ||| lo)⟩)

/-- Where the coefficients of a block go, with their values, when `k` scan positions are passed. -/
def coefPlaces (scan : List Nat) : Nat → List Coefficient → List (Nat × Int)
  | _, [] => []
  | k, x :: xs => (scan[k + x.run - 1]?.getD 0, x.val) :: coefPlaces scan (k + x.run) xs

/-- A dequantised coefficient stored with its column flag, for the base table `w` (44_coeff_dequant.md R285). -/
def storeCoef (w : Nat → BitVec 16) (quant : Int) (n : Nat) (c : Vector Coef 64 × Vector Bool 8) (e : Nat × Int) :
    Vector Coef 64 × Vector Bool 8 :=
  let v := dequantWith (asr ((w e.1).toNat * quant) 9) e.2
  (c.1.setIfInBounds e.1 v, c.2.setIfInBounds (e.1 % n) (c.2[e.1 % n]?.getD false || decide (v ≠ 0)))

/-- The motion-vector scale of a band (44_coeff_dequant.md R294). -/
def vectorScale (s : State) (bd : Band) : Int :=
  match s.band? 0 0 with
  | some b0 => (b0.mbSize / 8 : Nat) - ((bd.mbSize / 8 : Nat) : Int)
  | none => 0

/-- A component of an inherited vector (44_coeff_dequant.md R288, R293, R296); a negative scale gives a free value
(log 21). -/
def inherited (mvs mv : Int) : Int :=
  if mvs = 0 then mv
  else if 1 ≤ mvs then (mv + (if 0 < mv then 1 else 0) + (mvs - 1)) / 2 ^ mvs.toNat
  else Config.scaleMvBelow mv mvs

/-- The macroblock whose vector and quantiser delta macroblock `m` of a tile inherits (10_state.md R48; log 25). -/
def refOf (s : State) (tl : Tile) (m : Nat) : Option Mb := tl.refTile.bind fun i => s.mb? 0 0 i m

/-- Macroblock `m` of an empty tile, which was `old` (44_coeff_dequant.md R288). -/
def emptyRecord (s : State) (bd : Band) (tl : Tile) (m : Nat) (old : Mb) : Mb :=
  let w := ceilDiv tl.width bd.mbSize
  let x := tl.xpos + m % w * bd.mbSize
  let y := tl.ypos + m / w * bd.mbSize
  let clearFirst := bd.qdeltaPresent = false ∧ bd.plane = 0 ∧ bd.bandNum = 0
  let own : Mb := if clearFirst then { old with qDelta := bd.globQuant.toNat, mvX := 0, mvY := 0 } else old
  let placed : Mb := { own with xpos := x, ypos := y, bufOffs := y * bd.pitch + x, type := 1, cbp := 0 }
  match refOf s tl m with
  | none => placed
  | some ref =>
    { placed with
      qDelta := if bd.inheritQdelta then ref.qDelta else placed.qDelta
      mvX := if bd.inheritMv then inherited (vectorScale s bd) ref.mvX else placed.mvX
      mvY := if bd.inheritMv then inherited (vectorScale s bd) ref.mvY else placed.mvY }

/-- INDEO4's transforms by id: kernels and size (30_encoding.md R126). -/
def transforms4 : List (Nat × InvTx × DcTx × Nat) :=
  [(0, .haar8, .dchaar8, 8), (1, .haarrow8, .dchaar8, 8), (2, .haarcol8, .dchaar8, 8), (3, .copy8, .dccopy8, 8),
   (4, .slant8, .dcslant8, 8), (5, .slantrow8, .dcrowslant8, 8), (6, .slantcol8, .dccolslant8, 8),
   (10, .haar4, .dchaar4, 4), (11, .slant4, .dcslant4, 4), (13, .haarrow4, .dchaar4, 4), (14, .haarcol4, .dchaar4, 4),
   (15, .slantrow4, .dcrowslant4, 4), (16, .slantcol4, .dccolslant4, 4)]

/-- The commands run one after the other from `s`, each without an error, and leave `t`. -/
def completes : List Instr → State → State → Prop
  | [], s, t => t = s
  | i :: rest, s, t => ∃ u, exec i s = .next u ∧ u.err = .none ∧ completes rest u t

/-- The error kinds and their codes (60_exceptions.md R401). -/
def errCodes : List (ErrKind × Nat) :=
  [(.none, 0), (.illegalCommand, 1), (.badState, 2), (.brOverrun, 3), (.vlcDepth, 4), (.huffTooMany, 5), (.huffTooLong, 6),
   (.huffTableBits, 7), (.huffBadDesc, 8), (.huffEmpty, 9), (.badStartCode, 10), (.badFrameType, 11), (.badHeader, 12),
   (.unsupported, 13), (.allocFail, 14), (.notAllocated, 15), (.gopInvalid, 16), (.geometryMismatch, 17),
   (.tileSizeMismatch, 18), (.mvOob, 19), (.blockOob, 20), (.noReference, 21), (.refInvalid, 22), (.badSymbol, 23),
   (.blockCorrupt, 24)]

/-- The commands that write the output planes (20_memory.md R85; 10_state.md R54). -/
def writesOut : Instr → Bool
  | .decframe | .outplane _ _ | .recomphaar | .recomp53 | .reset => true
  | _ => false

/-- The commands that read the bitstream or bind one. -/
def movesCursor : Instr → Bool
  | .dechuffdesc _ _ _ | .decblk _ _ | .dectileblks _ _ | .decmbinfo _ _ | .decband _ _ | .tilesize | .decframe | .pichdr
  | .bandhdr _ _ | .gophdr | .reset => true
  | i => isBitReader i

/-- The commands that may change a band buffer. -/
def writesArena : Instr → Bool
  | .mc8nd _ | .mc8d _ | .mc4nd _ | .mc4d _ | .mcavg8nd _ _ | .mcavg8d _ _ | .mcavg4nd _ _ | .mcavg4d _ _
  | .decblk _ _ | .dcblk _ _ | .dectileblks _ _ | .emptytile _ _ | .decband _ _ | .decframe | .pichdr | .initplanes
  | .gophdr | .reset => true
  | i => (invTxOf.any fun e => decide (e.1 = i)) || dcTxOf.any fun e => decide (e.1 = i)

end Sys2Proof.Claims

open Sys2Proof Sys2Proof.Machine Sys2Proof.Claims

/-! ### Encoding and the step -/

/-- Every command, with every operand, decodes from its encoding (30_encoding.md R101, R102, R103, R109). -/
def Obligations.DecodeEncode : Prop := ∀ i : Instr, decode (encode i) = .ok i

/-- Every word that decodes is the encoding of what it decodes to, so no bit of it is dropped (R101, R104). -/
def Obligations.EncodeDecode : Prop := ∀ (cw : CommandWord) (i : Instr), decode cw = .ok i → encode i = cw

/-- The worked encodings of 30_encoding.md R112. -/
def Obligations.WorkedEncodings : Prop :=
  (decode 0x2C81000D = .ok (.getvlc2 8 1 13) ∧ encode (.getvlc2 8 1 13) = 0x2C81000D ∧
    0x0B <<< 26 ||| 8 <<< 20 ||| 1 <<< 16 ||| 13 = 0x2C81000D) ∧
  (decode 0x8000001A = .ok (.mc8d 3) ∧ encode (.mc8d 3) = 0x8000001A ∧
    0x20 <<< 26 ||| 3 <<< 3 ||| 0 <<< 2 ||| 1 <<< 1 ||| 0 = 0x8000001A) ∧
  (decode 0x6000000B = .ok .slant4 ∧ encode .slant4 = 0x6000000B ∧ 0x18 <<< 26 ||| 1 <<< 3 ||| 3 = 0x6000000B)

/-- One step runs the command the next command word names, on the state with its operand record read and the command
taken off the port, and adds nothing to it; with no command at the port it waits (20_memory.md R91, 30_encoding.md R110,
70_reset_and_hazards.md R442; the port is the model's, log 2). -/
def Obligations.StepRunsDecoded : Prop :=
  (∀ (s : State) (c : HostCmd) (rest : List HostCmd) (i : Instr), s.port = c :: rest → decode c.cw = .ok i →
    step s = exec i { s with opr := c.opr, port := rest }) ∧
  ∀ s : State, s.port = [] → step s = .next s

/-- A word that names no command, and a command with a reserved field value, change `STATUS.ERR` and nothing else
(30_encoding.md R104, 60_exceptions.md R402), but for the command and its record taken from the port. -/
def Obligations.IllegalOnlyErr : Prop :=
  (∀ (i : Instr) (s : State), i.wellFormed = false → exec i s = .next { s with err := .illegalCommand }) ∧
  ∀ (s : State) (c : HostCmd) (rest : List HostCmd) (e : DecodeError), s.port = c :: rest → decode c.cw = .error e →
    step s = .next { s with opr := c.opr, port := rest, err := .illegalCommand }

/-! ### The bit reader -/

/-- GETBITS, GETBITSLONG and GETBITS64 (40_bitreader.md R142, R143, R144): `RES` is the next `N` bits, the cursor moves by
`N`, and nothing else changes (`draws` counts the bits of the padding the read drew, log 4). -/
def Obligations.ReadsUnsigned : Prop :=
  ∀ (n : BitVec 7) (s : State) (i : Instr), s.bound = true → within s (s.br.index + n.toNat) →
    (i = .getbits n ∧ 1 ≤ n.toNat ∧ n.toNat ≤ 25 ∨ i = .getbitslong n ∧ n.toNat ≤ 32 ∨
      i = .getbits64 n ∧ n.toNat ≤ 64) →
    exec i s = .next { s with
      br := atBit s (s.br.index + n.toNat)
      res := BitVec.ofNat 64 (s.peek n.toNat)
      err := .none
      draws := s.draws + s.drawsAhead n.toNat }

/-- GETSBITS and GETSBITSLONG (40_bitreader.md R145, R146): the value is signed, its top bit the last one read under LE;
`N = 0` gives 0. -/
def Obligations.ReadsSigned : Prop :=
  ∀ (n : BitVec 7) (s : State) (i : Instr), s.bound = true → within s (s.br.index + n.toNat) →
    (i = .getsbits n ∧ 1 ≤ n.toNat ∧ n.toNat ≤ 25 ∨ i = .getsbitslong n ∧ n.toNat ≤ 32) →
    exec i s = .next { s with
      br := atBit s (s.br.index + n.toNat)
      res := BitVec.ofInt 64
        (if n = 0 then 0
         else if s.peek n.toNat < 2 ^ (n.toNat - 1) then s.peek n.toNat
         else (s.peek n.toNat : Int) - 2 ^ n.toNat)
      err := .none
      draws := s.draws + s.drawsAhead n.toNat }

/-- SHOWBITS, SHOWBITSLONG, BITSCOUNT and BITSLEFT (40_bitreader.md R147, R148, R152, R153): `RES` is the next `N` bits, the
cursor, or the signed count of bits left; the cursor does not move. -/
def Obligations.LooksWithoutMoving : Prop :=
  ∀ s : State, s.bound = true →
    (∀ (n : BitVec 7) (i : Instr), within s (s.br.index + n.toNat) →
      (i = .showbits n ∧ 1 ≤ n.toNat ∧ n.toNat ≤ 25 ∨ i = .showbitslong n ∧ n.toNat ≤ 32) →
      exec i s = .next { s with
        res := BitVec.ofNat 64 (s.peek n.toNat)
        err := .none
        draws := s.draws + s.drawsAhead n.toNat }) ∧
    exec .bitscount s = .next { s with res := BitVec.ofNat 64 s.br.index, err := .none } ∧
    exec .bitsleft s = .next { s with res := BitVec.ofInt 64 ((s.br.sizeBits : Int) - s.br.index), err := .none }

/-- SKIPBITS, SKIPBITSLONG and ALIGN (40_bitreader.md R149, R150, R151): the cursor moves by `N`, or to the next multiple of
8; `RES` and the rest do not change. -/
def Obligations.SkipsMoveTheCursor : Prop :=
  ∀ s : State, s.bound = true →
    (∀ n : BitVec 7, within s (s.br.index + n.toNat) →
      exec (.skipbits n) s = .next { s with br := atBit s (s.br.index + n.toNat), err := .none } ∧
      exec (.skipbitslong n) s = .next { s with br := atBit s (s.br.index + n.toNat), err := .none }) ∧
    (within s (aligned s.br.index) →
      exec .align s = .next { s with br := atBit s (aligned s.br.index), err := .none })

/-- A read, a look or a skip past the padding raises BR_OVERRUN and leaves the cursor (40_bitreader.md R140, R141); `RES`
is unspecified (60_exceptions.md R403). -/
def Obligations.PastPaddingOverruns : Prop :=
  ∀ s : State, s.bound = true →
    (∀ (i : Instr) (n : Nat), bitCount i = some n → i.wellFormed = true → ¬within s (s.br.index + n) →
      exec i s = .next
        { s with err := .brOverrun, res := Config.freeRes s.draws, draws := s.draws + 1 }) ∧
    (¬within s (aligned s.br.index) →
      exec .align s = .next
        { s with err := .brOverrun, res := Config.freeRes s.draws, draws := s.draws + 1 })

/-- With no bitstream bound every command of 40_bitreader.md raises BAD_STATE (R140) and changes nothing but `STATUS.ERR`
(60_exceptions.md R402). -/
def Obligations.NoStreamBadState : Prop :=
  ∀ (i : Instr) (s : State), isBitReader i = true → i.wellFormed = true → s.bound = false →
    exec i s = .next { s with err := .badState }

/-- `BsBit` (20_memory.md R81): a bit of the byte `i / 8` in the order of `P_BIT_ORDER`, and a draw at or beyond
`BR.size_bits`. -/
def Obligations.BitOrderRule : Prop :=
  ∀ (s : State) (i : Nat),
    (∀ (bytes : List Byte) (v : Byte), i < s.br.sizeBits → s.br.buf = some bytes → bytes[i / 8]? = some v →
      (s.params.bitOrder = .le → s.bsBit i = some (v.toNat.testBit (i % 8))) ∧
      (s.params.bitOrder = .be → s.bsBit i = some (v.toNat.testBit (7 - i % 8)))) ∧
    (s.br.sizeBits ≤ i → s.bsBit i = none ∧
      ∀ k, i = s.br.index + k → s.bitAhead k = Config.freeBit (s.draws + k))

/-- `Peek(n)` as a sum over the bits in stream order, and under LE as a field of the buffer read as one little-endian
integer (20_memory.md R82). -/
def Obligations.PeekFormula : Prop :=
  ∀ (s : State) (n : Nat),
    (s.params.bitOrder = .le → s.peek n = ∑ k ∈ Finset.range n, (s.bitAhead k).toNat * 2 ^ k) ∧
    (s.params.bitOrder = .be → s.peek n = ∑ k ∈ Finset.range n, (s.bitAhead k).toNat * 2 ^ (n - 1 - k)) ∧
    (∀ bytes : List Byte, s.params.bitOrder = .le → s.br.buf = some bytes → s.br.index + n ≤ s.br.sizeBits →
      s.br.index + n ≤ 8 * bytes.length → s.peek n = leInteger bytes / 2 ^ s.br.index % 2 ^ n)

/-- Two reads in a row and one read of their sum agree (40_bitreader.md R154), for bits that are not draws. -/
def Obligations.ReadSplit : Prop :=
  ∀ (n m : BitVec 7) (s : State), n.toNat + m.toNat ≤ 32 → s.bound = true →
    within s (s.br.index + (n.toNat + m.toNat)) → streamHas s (n.toNat + m.toNat) →
    ∃ a b c, exec (.getbitslong n) s = .next a ∧ exec (.getbitslong m) a = .next b ∧
      exec (.getbitslong (n + m)) s = .next c ∧
      (s.params.bitOrder = .le → a.res.toNat + b.res.toNat * 2 ^ n.toNat = c.res.toNat) ∧
      (s.params.bitOrder = .be → a.res.toNat * 2 ^ m.toNat + b.res.toNat = c.res.toNat) ∧
      b.br = c.br

/-! ### VLC -/

/-- GETVLC2 on a code of the first level, and on bits that no code fits (40_bitreader.md R160; 41_vlc.md R176): `RES` is
the symbol and the cursor moves by the code's length, or `RES` is -1 and the cursor stays. Where fewer than `B` bits are
left before the padding ends, the last bits in stream order are the draws, under BE too (the model's choice, log 12). -/
def Obligations.VlcFirstLevel : Prop :=
  ∀ (t : BitVec 6) (d : BitVec 2) (b : BitVec 5) (s : State) (tbl : VlcTable),
    (Instr.getvlc2 t d b).wellFormed = true → s.bound = true → s.table? t.toNat = some tbl →
    tbl.rootBits = b.toNat →
    (∀ c ∈ tbl.codes, prefixFree tbl.codes = true → c.bits.length ≤ b.toNat →
      c.bits.isPrefixOf (s.bitsAhead b.toNat) = true → within s (s.br.index + c.bits.length) →
      exec (.getvlc2 t d b) s = .next { s with
        br := atBit s (s.br.index + c.bits.length)
        res := BitVec.ofInt 64 c.sym
        err := .none
        draws := s.draws + s.drawsAhead b.toNat }) ∧
    ((∀ c ∈ tbl.codes, c.bits.isPrefixOf (s.bitsAhead b.toNat) = false ∧
        (s.bitsAhead b.toNat).isPrefixOf c.bits = false) →
      exec (.getvlc2 t d b) s = .next { s with
        res := BitVec.ofInt 64 (-1)
        err := .none
        draws := s.draws + s.drawsAhead b.toNat })

/-- The round trip of 41_vlc.md R183: a stream that holds a code of a built table decodes to its symbol. The depth of a
code in a table of 13 index bits is its length over 13, rounded up (R177). -/
def Obligations.VlcRoundTrip : Prop :=
  ∀ (p : Params) (desc : HuffDesc) (tbl : VlcTable), huffBuild p desc = .ok tbl →
    ∀ c ∈ tbl.codes, ∀ (s : State) (d : BitVec 2), s.slot48 = some tbl → s.bound = true →
      (∀ k, k < c.bits.length → s.bsBit (s.br.index + k) = c.bits[k]?) → d ≠ 0 →
      c.bits.length ≤ 13 * d.toNat →
      ∃ u, exec (.getvlc2 48 d 13) s = .next u ∧
        u = { s with
          br := atBit s (s.br.index + c.bits.length)
          res := BitVec.ofInt 64 c.sym
          err := .none
          draws := u.draws }

/-- HUFFBUILD and INITVLC put the table they build into slot 48 (41_vlc.md R171, R175), or raise the error of the build:
HUFFBUILD then leaves the slot NONE, INITVLC as it was (the model's choice, log 14). `oprCode` gives a code its canonical
bits in stream order (log 14); of an operand code whose value has bits above its `len` it takes the `len` lowest bits (the
model's choice, log 47). -/
def Obligations.TableSlotBuilt : Prop :=
  ∀ s : State,
    (∀ tbl, huffBuild s.params s.opr.desc = .ok tbl →
      exec (.huffbuild 48) s = .next { s with slot48 := some tbl, err := .none }) ∧
    (∀ e, huffBuild s.params s.opr.desc = .error e →
      exec (.huffbuild 48) s = .next { s with
        slot48 := none, err := e.kind, res := Config.freeRes s.draws, draws := s.draws + 1 }) ∧
    (∀ kept, kept = (s.opr.codes.map oprCode).filter (fun c => !c.bits.isEmpty) →
      (1 ≤ s.opr.rootBits → s.opr.rootBits ≤ 30 → (∀ c ∈ s.opr.codes, c.len ≤ 32) → prefixFree kept = true →
        exec (.initvlc 48) s = .next { s with slot48 := some ⟨s.opr.rootBits, kept⟩, err := .none }) ∧
      (∀ e, (s.opr.rootBits = 0 ∨ 30 < s.opr.rootBits) ∧ e = ErrKind.huffTableBits ∨
          (1 ≤ s.opr.rootBits ∧ s.opr.rootBits ≤ 30) ∧ (∃ c ∈ s.opr.codes, 32 < c.len) ∧ e = .huffTooLong ∨
          (1 ≤ s.opr.rootBits ∧ s.opr.rootBits ≤ 30) ∧ (∀ c ∈ s.opr.codes, c.len ≤ 32) ∧ prefixFree kept = false ∧
            e = .huffBadDesc →
        exec (.initvlc 48) s = .next { s with
          err := e, res := Config.freeRes s.draws, draws := s.draws + 1 }))

/-- The codes of a descriptor (41_vlc.md R174): prefix-free, as many as the sum of `2 ^ xbits` unless truncated at 256, their
symbols 0, 1, 2 … in build order (R173), and complete unless truncated or the one code of one bit. The empty descriptor,
which has no code, is left out of completeness. -/
def Obligations.HuffCodes : Prop :=
  ∀ (p : Params) (desc : HuffDesc) (tbl : VlcTable), huffBuild p desc = .ok tbl →
    let total := ((descRows desc).map fun x => 2 ^ x).sum
    prefixFree tbl.codes = true ∧ tbl.codes.length = min total 256 ∧
    tbl.codes.map VlcCode.sym = (List.range (min total 256)).map Int.ofNat ∧
    (total ≤ 256 → descRows desc ≠ [] → descRows desc ≠ [0] →
      (tbl.codes.map fun c => 2 ^ (32 - c.bits.length)).sum = 2 ^ 32)

/-- DECHUFFDESC with a predefined selection, and with no descriptor coded (41_vlc.md R178, R179).
That the command keeps `RES` is the model's reading (log 9). -/
def Obligations.HuffDescSelects : Prop :=
  ∀ (t : BitVec 6) (w : BitVec 1) (s : State) (h : HuffTab), legalHuffSlot t = true → s.huffReg? t.toNat = some h →
    (s.params.huffNotCoded = .reuse → exec (.dechuffdesc t w 0) s = .next { s with err := .none }) ∧
    (s.params.huffNotCoded = .default7 →
      exec (.dechuffdesc t w 0) s
        = .next (s.setHuffReg t.toNat { h with tab := .predef (kindOfW w) 7 }).complete) ∧
    (∀ sel : BitVec 3, s.bound = true → within s (s.br.index + 3) → s.peek 3 = sel.toNat → sel ≠ 7 →
      exec (.dechuffdesc t w 1) s
        = .next (State.setHuffReg
            { s with br := atBit s (s.br.index + 3), draws := s.draws + s.drawsAhead 3 } t.toNat
            { h with tabSel := sel, tab := .predef (kindOfW w) sel.toFin }).complete)

/-- DECHUFFDESC with a custom descriptor (41_vlc.md R178, R180): built into slot 48 and the register, or taken from the
register when an equal one is built there; a row count of 0 is HUFF_EMPTY.
The rows past the row count are 0 by the model's choice (log 23); that the command keeps `RES` is its reading (log 9). -/
def Obligations.HuffDescCustom : Prop :=
  ∀ (t : BitVec 6) (w : BitVec 1) (s : State) (h : HuffTab) (n : Fin 16) (desc : HuffDesc),
    legalHuffSlot t = true → s.huffReg? t.toNat = some h → s.bound = true →
    streamHas s (7 + 4 * n) → s.peek 3 = 7 → field s 3 4 = n →
    (n = 0 → exec (.dechuffdesc t w 1) s
      = .next ((State.setHuffReg { s with br := atBit s (s.br.index + 7) } t.toNat
          { h with tabSel := 7 }).raised .huffEmpty)) ∧
    (n ≠ 0 → desc.numRows.val = n.val →
      (∀ k : Fin 16, desc.xbits[k] = if k < n then BitVec.ofNat 4 (field s (7 + 4 * k) 4) else 0) →
      (∀ tbl, (descSame desc h.custDesc && h.custTab.isSome) = false → huffBuild s.params desc = .ok tbl →
        exec (.dechuffdesc t w 1) s
          = .next (State.setHuffReg
              { s with br := atBit s (s.br.index + (7 + 4 * n)), slot48 := some tbl } t.toNat
              { tabSel := 7, tab := .custom, custDesc := desc, custTab := some tbl }).complete) ∧
      ((descSame desc h.custDesc && h.custTab.isSome) = true →
        exec (.dechuffdesc t w 1) s
          = .next (State.setHuffReg { s with br := atBit s (s.br.index + (7 + 4 * n)) } t.toNat
              { h with tabSel := 7, tab := .custom }).complete))

/-! ### Transforms -/

/-- When each of the 22 transform commands completes, and what stops it: the window out of the buffer is BLOCK_OOB and no
other effect (42_transforms.md R200, R230); a band or buffer that does not exist is BAD_STATE (log 18). -/
def Obligations.TransformWindow : Prop :=
  ∀ (s : State) (i : Instr) (n : Nat), ((∃ tx, (i, tx) ∈ invTxOf ∧ n = tx.size) ∨ ∃ tx, (i, tx) ∈ dcTxOf ∧ n = tx.size) →
    let d := s.opr.dst
    let fits := 0 ≤ d.off ∧ d.off + ((n : Int) - 1) * s.opr.pitch + n ≤ s.bandSize d.p d.b
    (hasTarget s d.p d.b d.k = true → fits →
      ∃ t, exec i s = .next t ∧
        t = { s with mem := { s.mem with arena := t.mem.arena }, draws := t.draws, err := .none }) ∧
    (hasTarget s d.p d.b d.k = true → ¬fits →
      exec i s = .next { s with err := .blockOob, res := Config.freeRes s.draws, draws := s.draws + 1 }) ∧
    (hasTarget s d.p d.b d.k = false → exec i s = .next { s with err := .badState })

/-- An INVTX command writes each sample of its block with what the kernel of its rule gives there (42_transforms.md R200,
R210 to R222), unless its arithmetic left 32 bits (R204), and no other sample. `size <= pitch` keeps the block's samples
apart. The default kernels give the butterflies of R202 and R203 of the input (`kernelValue`), and their arithmetic stays
in 32 bits on coefficients of at most 2^20 in size. -/
def Obligations.InvTxSamples : Prop :=
  ∀ (s : State), ∀ e ∈ invTxOf, s.MemoryOk →
    let d := s.opr.dst
    let n := e.2.size
    let out := invKernel s.params.kernels e.2 s.opr.coefs s.opr.flags
    hasTarget s d.p d.b d.k = true → n ≤ s.opr.pitch → 0 ≤ d.off →
    d.off + ((n : Int) - 1) * s.opr.pitch + n ≤ s.bandSize d.p d.b →
    ∃ t, exec e.1 s = .next t ∧
      (∀ r c, r < n → c < n → ∃ v, (r, c, v) ∈ out ∧
        (kernelOk out = true → t.sample d.p d.b d.k (blockAddr d.off s.opr.pitch r c) = wrap16 v.val) ∧
        (s.params.kernels = .standard → v.val = kernelValue e.2 s.opr.coefs s.opr.flags r c)) ∧
      (s.params.kernels = .standard →
        (∀ i : Fin 64, -2 ^ 20 ≤ (s.opr.coefs[i]).toInt ∧ (s.opr.coefs[i]).toInt ≤ 2 ^ 20) → kernelOk out = true) ∧
      onlyBlock s t d.p d.b d.k d.off s.opr.pitch n ∧
      t = { s with mem := { s.mem with arena := t.mem.arena }, draws := t.draws, err := .none }

/-- A DCTX command writes its closed form (42_transforms.md R231 to R237), for every `dc` but the one whose rounding sum
leaves 32 bits (log 29). -/
def Obligations.DcTxSamples : Prop :=
  ∀ (s : State), ∀ e ∈ dcTxOf, s.MemoryOk →
    let d := s.opr.dst
    let n := e.2.size
    hasTarget s d.p d.b d.k = true → n ≤ s.opr.pitch → 0 ≤ d.off →
    d.off + ((n : Int) - 1) * s.opr.pitch + n ≤ s.bandSize d.p d.b → s.opr.dc.toInt ≠ 2 ^ 31 - 1 →
    ∃ t, exec e.1 s = .next t ∧
      (∀ r c, r < n → c < n →
        t.sample d.p d.b d.k (blockAddr d.off s.opr.pitch r c) = wrap16 (dcClosed e.2 s.opr.dc.toInt r c)) ∧
      onlyBlock s t d.p d.b d.k d.off s.opr.pitch n ∧
      t = { s with mem := { s.mem with arena := t.mem.arena }, err := .none }

/-- The DC equivalence of the 2D kernels (42_transforms.md R240): on a DC-only input the full transform and the DC form
leave the same state, whatever the instance's `P_KERNELS` (92_eei_decisions.md D14; log 6). -/
def Obligations.DcEquivalence : Prop :=
  ∀ s : State, s.opr.coefs = dcOnly s.opr.dc → s.opr.flags = firstColumn →
    -2 ^ 28 < s.opr.dc.toInt → s.opr.dc.toInt < 2 ^ 28 →
    exec .haar8 s = exec .dchaar8 s ∧ exec .haar4 s = exec .dchaar4 s ∧
    exec .slant8 s = exec .dcslant8 s ∧ exec .slant4 s = exec .dcslant4 s

/-- The row and column forms on a DC-only input (42_transforms.md R241), under the default `P_KERNELS`: the Slant ones
leave the same state as their DC forms, the four Haar ones do not agree with the 2D DC form they are paired with. For the
one `dc` whose rounding sum leaves 32 bits, 2^31 - 1, both Slant forms write the same draws, because the model draws both
from the one counter (log 4, log 29). -/
def Obligations.RowColumnDc : Prop :=
  (∀ s : State, s.params.kernels = .standard → s.opr.coefs = dcOnly s.opr.dc → s.opr.flags = firstColumn →
    exec .slantrow8 s = exec .dcrowslant8 s ∧ exec .slantrow4 s = exec .dcrowslant4 s ∧
    exec .slantcol8 s = exec .dccolslant8 s ∧ exec .slantcol4 s = exec .dccolslant4 s) ∧
  (∀ i, i < 8 →
    (0, i, tc 2) ∈ invKernel .standard .haarrow8 (dcOnly 8) firstColumn ∧ (0, i, tc 1) ∈ dcKernel .dchaar8 8 ∧
    (i, 0, tc 2) ∈ invKernel .standard .haarcol8 (dcOnly 8) firstColumn ∧ (i, 0, tc 1) ∈ dcKernel .dchaar8 8) ∧
  (∀ i, i < 4 →
    (0, i, tc 2) ∈ invKernel .standard .haarrow4 (dcOnly 8) firstColumn ∧ (0, i, tc 1) ∈ dcKernel .dchaar4 8 ∧
    (i, 0, tc 2) ∈ invKernel .standard .haarcol4 (dcOnly 8) firstColumn ∧ (i, 0, tc 1) ∈ dcKernel .dchaar4 8)

/-! ### Motion compensation -/

/-- The single-reference MC commands (43_motion_comp.md R252, R254 to R257): each sample of the block is the prediction, or
what stood there plus it; nothing else changes. `n <= pitch` holds of every band of a run (`State.GeometryOk`). -/
def Obligations.McWritesPrediction : Prop :=
  ∀ (s : State), ∀ e ∈ mcOf, ∀ (t : BitVec 2) (bd : Band), s.MemoryOk →
    s.band? s.opr.dst.p s.opr.dst.b = some bd → e.2.1 ≤ bd.pitch → mcWindows bd s.opr e.2.1 t → mcBuffers s →
    ∃ u, exec (e.1 t) s = .next u ∧
      (∀ r c, r < e.2.1 → c < e.2.1 →
        u.sample s.opr.dst.p s.opr.dst.b s.opr.dst.k (cell bd s.opr.dst.off r c)
          = wrap16 ((if e.2.2 then
                (s.sample s.opr.dst.p s.opr.dst.b s.opr.dst.k (cell bd s.opr.dst.off r c)).toInt else 0)
              + taps s s.opr.dst.p s.opr.dst.b s.opr.k1 bd.pitch (cell bd s.opr.roff1 r c) t)) ∧
      onlyBlock s u s.opr.dst.p s.opr.dst.b s.opr.dst.k s.opr.dst.off bd.pitch e.2.1 ∧
      u = { s with mem := { s.mem with arena := u.mem.arena }, err := .none }

/-- The averaging MC commands (43_motion_comp.md R258, R259): half the 16-bit sum of the two predictions, rounded down,
written or added; `mctmp` is left holding the sums. -/
def Obligations.McAvgWritesAverage : Prop :=
  ∀ (s : State), ∀ e ∈ mcAvgOf, ∀ (t t2 : BitVec 2) (bd : Band), s.MemoryOk →
    s.band? s.opr.dst.p s.opr.dst.b = some bd → e.2.1 ≤ bd.pitch → mcWindows bd s.opr e.2.1 t →
    windowOk bd s.opr.roff2 e.2.1 (extraReach bd t2) → mcBuffers2 s →
    let sum := fun r c => wrap16
      ((wrap16 (taps s s.opr.dst.p s.opr.dst.b s.opr.k1 bd.pitch (cell bd s.opr.roff1 r c) t)).toInt
        + taps s s.opr.dst.p s.opr.dst.b s.opr.k2 bd.pitch (cell bd s.opr.roff2 r c) t2)
    ∃ u, exec (e.1 t t2) s = .next u ∧
      (∀ r c, r < e.2.1 → c < e.2.1 →
        u.sample s.opr.dst.p s.opr.dst.b s.opr.dst.k (cell bd s.opr.dst.off r c)
          = wrap16 ((if e.2.2 then
                (s.sample s.opr.dst.p s.opr.dst.b s.opr.dst.k (cell bd s.opr.dst.off r c)).toInt else 0)
              + (sum r c).toInt / 2) ∧
        u.scratch.mctmp[r * e.2.1 + c]? = some (sum r c)) ∧
      onlyBlock s u s.opr.dst.p s.opr.dst.b s.opr.dst.k s.opr.dst.off bd.pitch e.2.1 ∧
      u = { s with mem := { s.mem with arena := u.mem.arena }, err := .none,
                   scratch := { s.scratch with mctmp := u.scratch.mctmp } }

/-- What stops an MC command (43_motion_comp.md R251, R253): a window out of the buffer is MV_OOB, a missing buffer
NO_REFERENCE, a destination that is a reference BAD_STATE; no sample changes. That the BAD_STATE keeps `RES` is the
model's choice: it counts as one at the head of the command, of which R402 says so (60_exceptions.md; log 8). -/
def Obligations.McErrors : Prop :=
  ∀ (s : State) (bd : Band), s.band? s.opr.dst.p s.opr.dst.b = some bd →
    let exists' := fun k => s.hasBuffer s.opr.dst.p s.opr.dst.b k
    let raised := fun (e : ErrKind) =>
      ({ s with err := e, res := Config.freeRes s.draws, draws := s.draws + 1 } : State)
    (∀ e ∈ mcOf, ∀ t : BitVec 2,
      (¬mcWindows bd s.opr e.2.1 t → exec (e.1 t) s = .next (raised .mvOob)) ∧
      (mcWindows bd s.opr e.2.1 t → (exists' s.opr.dst.k && exists' s.opr.k1) = false →
        exec (e.1 t) s = .next (raised .noReference)) ∧
      (mcWindows bd s.opr e.2.1 t → (exists' s.opr.dst.k && exists' s.opr.k1) = true → s.opr.dst.k = s.opr.k1 →
        exec (e.1 t) s = .next { s with err := .badState })) ∧
    (∀ e ∈ mcAvgOf, ∀ t t2 : BitVec 2,
      let windows := mcWindows bd s.opr e.2.1 t ∧ windowOk bd s.opr.roff2 e.2.1 (extraReach bd t2)
      let all := exists' s.opr.dst.k && exists' s.opr.k1 && exists' s.opr.k2
      (¬windows → exec (e.1 t t2) s = .next (raised .mvOob)) ∧
      (windows → all = false → exec (e.1 t t2) s = .next (raised .noReference)) ∧
      (windows → all = true → (s.opr.dst.k = s.opr.k1 ∨ s.opr.dst.k = s.opr.k2) →
        exec (e.1 t t2) s = .next { s with err := .badState }))

/-- The full-pel identity and the bilinear floor (43_motion_comp.md R260, R261). -/
def Obligations.FullPelAndBilinear : Prop :=
  ∀ (s : State) (bd : Band), s.MemoryOk → s.band? s.opr.dst.p s.opr.dst.b = some bd → mcBuffers s →
    let old := fun k a => (s.sample s.opr.dst.p s.opr.dst.b k a).toInt
    let new := fun (u : State) r c =>
      (u.sample s.opr.dst.p s.opr.dst.b s.opr.dst.k (cell bd s.opr.dst.off r c)).toInt
    (∀ e ∈ mcOf, e.2.2 = false → e.2.1 ≤ bd.pitch → mcWindows bd s.opr e.2.1 0 →
      ∃ u, exec (e.1 0) s = .next u ∧
        ∀ r c, r < e.2.1 → c < e.2.1 → new u r c = old s.opr.k1 (cell bd s.opr.roff1 r c)) ∧
    (∀ e ∈ mcAvgOf, e.2.2 = false → e.2.1 ≤ bd.pitch → mcWindows bd s.opr e.2.1 0 →
      s.opr.k2 = s.opr.k1 → s.opr.roff2 = s.opr.roff1 →
      ∃ u, exec (e.1 0 0) s = .next u ∧
        ∀ r c, r < e.2.1 → c < e.2.1 →
          -2 ^ 15 < 2 * old s.opr.k1 (cell bd s.opr.roff1 r c) →
          2 * old s.opr.k1 (cell bd s.opr.roff1 r c) < 2 ^ 15 →
          new u r c = old s.opr.k1 (cell bd s.opr.roff1 r c)) ∧
    (∀ e ∈ mcOf, e.2.2 = false → e.2.1 ≤ bd.pitch → mcWindows bd s.opr e.2.1 3 →
      ∃ u, exec (e.1 3) s = .next u ∧
        ∀ r c, r < e.2.1 → c < e.2.1 →
          let a := cell bd s.opr.roff1 r c
          new u r c = (old s.opr.k1 a + old s.opr.k1 (a + 1) + old s.opr.k1 (a + bd.pitch)
            + old s.opr.k1 (a + bd.pitch + 1)) / 4)

/-- Delta over NoDelta (43_motion_comp.md R262): on a zero destination block the two forms leave the same state. -/
def Obligations.DeltaOverNoDelta : Prop :=
  ∀ (s : State) (bd : Band), s.MemoryOk → s.band? s.opr.dst.p s.opr.dst.b = some bd →
    (8 ≤ bd.pitch → (∀ r c, r < 8 → c < 8 →
        s.sample s.opr.dst.p s.opr.dst.b s.opr.dst.k (cell bd s.opr.dst.off r c) = 0) →
      ∀ t t2 : BitVec 2, exec (.mc8d t) s = exec (.mc8nd t) s ∧ exec (.mcavg8d t t2) s = exec (.mcavg8nd t t2) s) ∧
    (4 ≤ bd.pitch → (∀ r c, r < 4 → c < 4 →
        s.sample s.opr.dst.p s.opr.dst.b s.opr.dst.k (cell bd s.opr.dst.off r c) = 0) →
      ∀ t t2 : BitVec 2, exec (.mc4d t) s = exec (.mc4nd t) s ∧ exec (.mcavg4d t t2) s = exec (.mcavg4nd t t2) s)

/-! ### Coefficients, blocks, tiles, bands -/

/-- DEQUANT (44_coeff_dequant.md R282): the step `q`, the value and its rounding term, which is `q / 2` for an even `q`
and `(q - 3) / 2` for an odd one; a band without a base table and a position outside the block are BAD_STATE. That the
BAD_STATE keeps `RES` is the model's choice: both count as preconditions at the head of the command, of which R402 says so
(60_exceptions.md; log 8). The operand `val` is a signed 32-bit value by the model's choice (log 50). -/
def Obligations.DequantValue : Prop :=
  ∀ (s : State) (bd : Band), ready s s.opr.dst.p s.opr.dst.b bd →
    (∀ (base : List (BitVec 16)) (w : BitVec 16),
      (if s.opr.intra then bd.intraBase else bd.interBase) = some base → s.opr.pos < bd.blkSize * bd.blkSize →
      base[s.opr.pos]? = some w →
      let q := (w.toNat : Int) * s.opr.quant / 512
      let val := s.opr.val.toInt
      let half := if q % 2 = 0 then q / 2 else (q - 3) / 2
      exec .dequant s = .next { s with
        res := BitVec.ofInt 64
          (if 1 < q then (wrap32 (val * q + (if 0 < val then half else -half))).toInt else val)
        err := .none }) ∧
    (((if s.opr.intra then bd.intraBase else bd.interBase) = none ∨ bd.blkSize * bd.blkSize ≤ s.opr.pos) →
      exec .dequant s = .next { s with err := .badState })

/-- A flat block and any coded block. The first part is 44_coeff_dequant.md R299: DECBLK of an intra macroblock in a
2D-transform band whose symbols are one coefficient at scan position 0 and the end of the block writes the DC transform of
`prev_dc` plus the dequantised value, within the range of 42_transforms.md R240 and under the default `P_KERNELS`. The
second is R285 for a block of any coefficients, plain or escaped, of an intra macroblock or of one with a forward
prediction: the inverse transform of the dequantised coefficients, with `prev_dc` in an intra block of a 2D band, and the
prediction added to it. Nothing else changes but the cursor and the working state.
A block number up to 3 is taken in a macroblock of one block too (log 38); that the command keeps `RES` is the model's
reading (log 9). -/
def Obligations.FlatBlock : Prop :=
  (∀ (p b : BitVec 2) (s : State) (bd : Band) (mb : Mb) (tbl : VlcTable) (c e : VlcCode) (scan : List Nat)
    (base : List (BitVec 16)) (w : BitVec 16) (sym : Fin 256),
    p ≠ 3 → s.params.kernels = .standard → s.MemoryOk → ready s p.toNat b.toNat bd →
    s.mb? p.toNat b.toNat s.opr.t s.opr.m = some mb →
    s.opr.blk < 4 → mb.type = 0 → bd.is2d = true →
    ∀ k ∈ dcPairs, bd.invTransform = some k.1 → bd.blkSize = k.1.size → bd.transformSize = k.1.size →
    k.1.size ≤ bd.pitch → blockIn bd (blockOffset bd mb s.opr.blk) k.1.size →
    bd.scan = some scan → scan[0]? = some 0 → bd.intraBase = some base → base[0]? = some w →
    s.tableOf bd.blkVlc = some tbl → codesAhead s tbl 0 c e →
    let rv := s.rvmaps[bd.rvmapSel]
    c.sym = sym.val → sym.val ≠ rv.eobSym.toNat → sym.val ≠ rv.escSym.toNat → e.sym = rv.eobSym.toNat →
    rv.runtab[sym] = 1 →
    let q := asr ((w.toNat : Int) * mbQuant s.params.codec bd mb) 9
    let dc := wrap32 (s.scratch.prevDc.toInt + (dequantWith q (rv.valtab[sym]).toInt).toInt)
    dc.toInt > -2 ^ 28 → dc.toInt < 2 ^ 28 →
    let off := blockOffset bd mb s.opr.blk
    ∃ u, exec (.decblk p b) s = .next u ∧
      (∀ r x, r < k.1.size → x < k.1.size →
        u.sample p.toNat b.toNat s.rot.dstBuf (cell bd off r x) = wrap16 (dcClosed k.2 dc.toInt r x)) ∧
      onlyBlock s u p.toNat b.toNat s.rot.dstBuf off bd.pitch k.1.size ∧
      u = { s with
        mem := { s.mem with arena := u.mem.arena }
        br := atBit s (s.br.index + (c.bits.length + e.bits.length))
        err := .none, scratch := u.scratch, draws := u.draws }) ∧
  ∀ (p b : BitVec 2) (s : State) (bd : Band) (mb : Mb) (tbl : VlcTable) (e : VlcCode) (scan : List Nat)
    (base : List (BitVec 16)) (w : Nat → BitVec 16) (tx : InvTx) (xs : List Coefficient) (k1 : Fin 4),
    p ≠ 3 → ready s p.toNat b.toNat bd → s.mb? p.toNat b.toNat s.opr.t s.opr.m = some mb → s.opr.blk < 4 →
    mb.type = 0 ∨ mb.type = 1 ∧ bd.refBuf = some k1 ∧ vectorsFit bd mb = true →
    bd.invTransform = some tx → bd.blkSize = tx.size → bd.transformSize = tx.size →
    let n := tx.size
    let off := blockOffset bd mb s.opr.blk
    blockIn bd off n → bd.scan = some scan → (∀ i, i < n * n → ∃ pos, scan[i]? = some pos ∧ pos < n * n) →
    (if mb.type = 0 then bd.intraBase else bd.interBase) = some base → (∀ i, i < n * n → base[i]? = some (w i)) →
    s.tableOf bd.blkVlc = some tbl → tbl.rootBits = 13 → prefixFree tbl.codes = true →
    let rv := s.rvmaps[bd.rvmapSel]
    (∀ x ∈ xs, isCoefficient rv tbl x) → (∃ x, xs.head? = some x ∧ 0 < x.run) → (xs.map Coefficient.run).sum ≤ n * n →
    e ∈ tbl.codes → e.bits.length ≤ 13 → e.sym = rv.eobSym.toNat →
    let bits := xs.flatMap Coefficient.bits ++ e.bits
    (∀ j, j < bits.length → s.bsBit (s.br.index + j) = bits[j]?) →
    let blank := (Vector.ofFn fun i => if i.val < n * n then 0 else s.scratch.trvec[i], Vector.replicate 8 false)
    let read := (coefPlaces scan 0 xs).foldl (storeCoef w (mbQuant s.params.codec bd mb) n) blank
    let dc := wrap32 (s.scratch.prevDc.toInt + (read.1[0]).toInt)
    let inp :=
      if mb.type = 0 ∧ bd.is2d = true then (read.1.set 0 dc, read.2.set 0 (read.2[0] || decide (dc ≠ 0))) else read
    let out := invKernel s.params.kernels tx inp.1 inp.2
    let t1 := mcType bd.isHalfpel mb.mvX mb.mvY
    let o : McOps := ⟨p.toNat, b.toNat, s.rot.dstBuf, off, k1,
      (off : Int) + halve bd.isHalfpel mb.mvY * bd.pitch + halve bd.isHalfpel mb.mvX, 0, 0⟩
    kernelOk out = true → (mb.type = 1 → checkMc o n t1 none s = none) →
    let written := s.writeBlock ⟨p.toNat, b.toNat, s.rot.dstBuf, off⟩ bd.pitch n out
    ∃ u, exec (.decblk p b) s = .next u ∧
      u = { s with
        mem := if mb.type = 0 then written.mem else (written.mcWrite o n true (written.predicted o t1)).mem
        br := atBit s (s.br.index + bits.length)
        err := .none, scratch := u.scratch, draws := u.draws }

/-- DCBLK (44_coeff_dequant.md R283, R284, R286): an intra block takes the DC transform of `prev_dc`, or nothing when the
band has none; a block of type 1, 2 or 3 takes the prediction from its reference, its backward reference, or both. A block
number up to 3 is taken in a macroblock of one block too (log 38). -/
def Obligations.DcBlockFills : Prop :=
  ∀ (p b : BitVec 2) (s : State) (bd : Band) (mb : Mb), p ≠ 3 → ready s p.toNat b.toNat bd →
    s.mb? p.toNat b.toNat s.opr.t s.opr.m = some mb → s.opr.blk < 4 →
    blockIn bd (blockOffset bd mb s.opr.blk) bd.blkSize →
    let off := blockOffset bd mb s.opr.blk
    let dst : Dst := ⟨p.toNat, b.toNat, s.rot.dstBuf, off⟩
    let at' := fun (vx vy : Int) => (off : Int) + halve bd.isHalfpel vy * bd.pitch + halve bd.isHalfpel vx
    let t1 := mcType bd.isHalfpel mb.mvX mb.mvY
    let t2 := mcType bd.isHalfpel mb.bMvX mb.bMvY
    (mb.type = 0 → ∀ tx, bd.dcTransform = some tx → blockIn bd off tx.size →
      exec (.dcblk p b) s
        = .next (s.writeBlock dst bd.pitch tx.size (dcKernel tx s.scratch.prevDc)).complete) ∧
    (mb.type = 0 → bd.dcTransform = none → exec (.dcblk p b) s = .next { s with err := .none }) ∧
    (∀ k1 : Fin 4, mb.type = 1 → bd.refBuf = some k1 → vectorsFit bd mb = true →
      let o : McOps := ⟨p.toNat, b.toNat, s.rot.dstBuf, off, k1, at' mb.mvX mb.mvY, 0, 0⟩
      checkMc o bd.blkSize t1 none s = none →
      exec (.dcblk p b) s = .next (s.mcWrite o bd.blkSize false (s.predicted o t1)).complete) ∧
    (∀ k2 : Fin 4, mb.type = 2 → bd.bRefBuf = some k2 → vectorsFit bd mb = true →
      let o : McOps := ⟨p.toNat, b.toNat, s.rot.dstBuf, off, k2, at' mb.bMvX mb.bMvY, 0, 0⟩
      checkMc o bd.blkSize t2 none s = none →
      exec (.dcblk p b) s = .next (s.mcWrite o bd.blkSize false (s.predicted o t2)).complete) ∧
    (∀ k1 k2 : Fin 4, mb.type = 3 → bd.refBuf = some k1 → bd.bRefBuf = some k2 → vectorsFit bd mb = true →
      let o : McOps := ⟨p.toNat, b.toNat, s.rot.dstBuf, off, k1, at' mb.mvX mb.mvY, k2, at' mb.bMvX mb.bMvY⟩
      checkMc o bd.blkSize t1 (some t2) s = none →
      exec (.dcblk p b) s
        = .next ((s.withMcTmp bd.blkSize (s.mcSum o t1 t2)).mcWrite o bd.blkSize false fun r c =>
            (s.mcSum o t1 t2 r c).toInt / 2).complete)

/-- DECTILEBLKS of a tile of one uncoded intra block (44_coeff_dequant.md R287, the rule's example): `prev_dc` is cleared,
so the block is filled with 0, and the cursor is aligned.
That the command keeps `RES` is the model's reading (log 9). -/
def Obligations.TileBlocksFillZero : Prop :=
  ∀ (p b : BitVec 2) (s : State) (bd : Band) (tl : Tile) (mb : Mb) (tx : DcTx), p ≠ 3 → s.MemoryOk → s.bound = true →
    ready s p.toNat b.toNat bd → s.tile? p.toNat b.toNat s.opr.t = some tl → tl.mbs = [mb] → mb.type = 0 →
    mb.cbp = 0 → bd.mbSize = bd.blkSize → bd.dcTransform = some tx → bd.blkSize = tx.size → tx.size ≤ bd.pitch →
    blockIn bd mb.bufOffs tx.size → within s (aligned s.br.index) →
    ∃ u, exec (.dectileblks p b) s = .next u ∧
      (∀ r c, r < tx.size → c < tx.size →
        u.sample p.toNat b.toNat s.rot.dstBuf (cell bd mb.bufOffs r c) = 0) ∧
      onlyBlock s u p.toNat b.toNat s.rot.dstBuf mb.bufOffs bd.pitch tx.size ∧
      u = { s with
        mem := { s.mem with arena := u.mem.arena }
        br := atBit s (aligned s.br.index)
        err := .none, scratch := u.scratch, draws := u.draws }

/-- EMPTYTILE (44_coeff_dequant.md R288, R293, R294): every macroblock takes the record of the rule, its quantiser delta
and its vector cleared, inherited or kept. When no vector is inherited, or each inherited one is zero, the tile is copied
from the reference buffer; the block of a tile of one that inherits a vector is predicted by it. No other sample changes,
and nothing else does. Only band (0, 0) has no reference tile (45_frame_engine.md R317).
That the command keeps `RES` is the model's reading (log 9). -/
def Obligations.EmptyTileCopies : Prop :=
  ∀ (p b : BitVec 2) (s : State) (bd : Band) (tl : Tile) (k1 : Fin 4), p ≠ 3 → s.MemoryOk →
    ready s p.toNat b.toNat bd → s.tile? p.toNat b.toNat s.opr.t = some tl → bd.mbSize ≠ 0 →
    tl.mbs.length = ceilDiv tl.width bd.mbSize * ceilDiv tl.height bd.mbSize →
    bd.refBuf = some k1 → s.hasBuffer p.toNat b.toNat k1 = true →
    (∀ i, tl.refTile = some i → (p ≠ 0 ∨ b ≠ 0) ∧ ∀ m, m < tl.mbs.length → (s.mb? 0 0 i m).isSome = true) →
    let inherits := bd.inheritMv = true ∧ tl.refTile.isSome = true
    let record := emptyRecord s bd tl
    (inherits → ∀ m old, tl.mbs[m]? = some old →
      vectorFits bd (record m old).xpos (record m old).ypos (record m old).mvX (record m old).mvY = true) →
    let planes := (s.updTile p.toNat b.toNat s.opr.t fun tl => { tl with mbs := tl.mbs.mapIdx record }).planes
    ((inherits → ∀ m old, tl.mbs[m]? = some old → (record m old).mvX = 0 ∧ (record m old).mvY = 0) →
      ∃ u, exec (.emptytile p b) s = .next u ∧
        (∀ row col, row < tl.height → col < tl.width →
          let a := (tl.ypos + row) * bd.pitch + (tl.xpos + col)
          u.sample p.toNat b.toNat s.rot.dstBuf a = s.sample p.toNat b.toNat k1 a) ∧
        (∀ p' b' k a, ¬((p' = p.toNat ∧ b' = b.toNat ∧ k = s.rot.dstBuf.val) ∧
            ∃ row col, row < tl.height ∧ col < tl.width ∧ a = (tl.ypos + row) * bd.pitch + (tl.xpos + col)) →
          u.sample p' b' k a = s.sample p' b' k a) ∧
        u = { s with mem := { s.mem with arena := u.mem.arena }, err := .none, planes := planes }) ∧
    (∀ old, inherits → tl.mbs = [old] → bd.mbSize = bd.blkSize →
      let mb := record 0 old
      let t1 := mcType bd.isHalfpel mb.mvX mb.mvY
      let o : McOps := ⟨p.toNat, b.toNat, s.rot.dstBuf, mb.bufOffs, k1,
        (mb.bufOffs : Int) + halve bd.isHalfpel mb.mvY * bd.pitch + halve bd.isHalfpel mb.mvX, 0, 0⟩
      mb.mvX ≠ 0 ∨ mb.mvY ≠ 0 → checkMc o bd.blkSize t1 none s = none →
      exec (.emptytile p b) s = .next { s with
        mem := (s.mcWrite o bd.blkSize false (s.predicted o t1)).mem, err := .none, planes := planes })

/-- TILESIZE (44_coeff_dequant.md R289): 0 for a 0 bit, else 8 bits, or 24 after the escape 255; the cursor is aligned
after them. -/
def Obligations.TileSizeValue : Prop :=
  ∀ s : State, s.bound = true → streamHas s 1 →
    (field s 0 1 = 0 → within s (aligned (s.br.index + 1)) →
      exec .tilesize s = .next { s with res := 0, br := atBit s (aligned (s.br.index + 1)), err := .none }) ∧
    (streamHas s 9 → field s 0 1 = 1 → field s 1 8 ≠ 255 → within s (aligned (s.br.index + 9)) →
      exec .tilesize s = .next { s with
        res := BitVec.ofNat 64 (field s 1 8), br := atBit s (aligned (s.br.index + 9)), err := .none }) ∧
    (streamHas s 33 → field s 0 1 = 1 → field s 1 8 = 255 → within s (aligned (s.br.index + 33)) →
      exec .tilesize s = .next { s with
        res := BitVec.ofNat 64 (field s 9 24), br := atBit s (aligned (s.br.index + 33)), err := .none })

/-- DECMBINFO of a tile of one macroblock. Without inheritance and without a coded quantiser delta
(44_coeff_dequant.md R296, R297): an intra macroblock, an empty one, an inter one, whose y delta precedes its x delta, and
in an INDEO4 BIDIR frame a backward one and one of both directions. With an inherited vector (R293, R294): the type, the
quantiser delta where it is inherited, and the scaled vector of the reference macroblock.
That the command keeps `RES` is the model's reading (log 9). -/
def Obligations.MbInfoOneMacroblock : Prop :=
  (∀ (p b : BitVec 2) (s : State) (bd : Band) (tl : Tile) (old : Mb), p ≠ 3 → s.bound = true →
    ready s p.toNat b.toNat bd → s.tile? p.toNat b.toNat s.opr.t = some tl → tl.mbs = [old] → bd.mbSize ≠ 0 →
    ceilDiv tl.width bd.mbSize * ceilDiv tl.height bd.mbSize = 1 → bd.inheritMv = false →
    (s.params.codec = .indeo4 → bd.inheritQdelta = false ∧ (bd.isFirst = false ∨ s.hdr.inQ = false)) →
    (s.params.codec = .indeo5 → (bd.qdeltaPresent = false ∨ bd.inheritQdelta = false) ∧
      (bd.isFirst = false ∨ s.hdr.frameFlags.getLsbD 3 = false)) →
    (∀ i, tl.refTile = some i → (s.mb? 0 0 i 0).isSome = true) →
    let nb := if bd.mbSize ≠ bd.blkSize then 4 else 1
    let placed : Mb := { old with
      xpos := tl.xpos, ypos := tl.ypos, bufOffs := tl.ypos * bd.pitch + tl.xpos, qDelta := 0, cbp := 0
      bMvX := if s.params.codec = .indeo4 then 0 else old.bMvX
      bMvY := if s.params.codec = .indeo4 then 0 else old.bMvY }
    let gives := fun (mb : Mb) (len : Nat) => ∃ d, exec (.decmbinfo p b) s = .next { s with
      planes := (s.updMb p.toNat b.toNat s.opr.t 0 fun _ => mb).planes
      br := atBit s (aligned (s.br.index + len)), err := .none, draws := d }
    (s.frameType = 0 → streamHas s (1 + nb) → field s 0 1 = 0 → field s 1 nb = 0 →
      within s (aligned (s.br.index + (1 + nb))) →
      gives { placed with type := 0, mvX := 0, mvY := 0 } (1 + nb)) ∧
    (s.frameType ≠ 0 → streamHas s 1 → field s 0 1 = 1 → within s (aligned (s.br.index + 1)) →
      tl.xpos + bd.mbSize + (tl.ypos + bd.mbSize - 1) * bd.pitch ≤ bd.pitch * bd.aheight →
      gives { placed with type := 1, mvX := 0, mvY := 0 } 1) ∧
    (∀ (tbl : VlcTable) (cy cx : VlcCode) (uy ux : Nat),
      s.frameType = (if s.params.codec = .indeo4 then 2 else 1) → streamHas s (2 + nb) → field s 0 1 = 0 →
      field s 1 1 = 1 → field s 2 nb = 0 → s.tableOf s.mbVlc = some tbl → codesAhead s tbl (2 + nb) cy cx →
      cy.sym = uy → cx.sym = ux →
      within s (aligned (s.br.index + (2 + nb + cy.bits.length + cx.bits.length))) →
      let mb : Mb := { placed with type := 1, mvX := toSigned ux, mvY := toSigned uy }
      mbWindow bd mb = true → gives mb (2 + nb + cy.bits.length + cx.bits.length)) ∧
    (∀ (tbl : VlcTable) (cy cx : VlcCode) (uy ux : Nat), s.params.codec = .indeo4 → s.frameType = 3 →
      streamHas s (3 + nb) → field s 0 1 = 0 → field s 3 nb = 0 → s.tableOf s.mbVlc = some tbl →
      codesAhead s tbl (3 + nb) cy cx → cy.sym = uy → cx.sym = ux →
      let len := 3 + nb + cy.bits.length + cx.bits.length
      (field s 1 2 = 2 → within s (aligned (s.br.index + len)) →
        let mb : Mb := { placed with type := 2, mvX := 0, mvY := 0, bMvX := -toSigned ux, bMvY := -toSigned uy }
        mbWindow bd mb = true → gives mb len) ∧
      (∀ (dy dx : VlcCode) (vy vx : Nat), field s 1 2 = 3 → codesAhead s tbl len dy dx → dy.sym = vy → dx.sym = vx →
        let len' := len + dy.bits.length + dx.bits.length
        within s (aligned (s.br.index + len')) →
        let mb : Mb := { placed with
          type := 3, mvX := toSigned ux, mvY := toSigned uy
          bMvX := -(toSigned ux + toSigned vx), bMvY := -(toSigned uy + toSigned vy) }
        mbWindow bd mb = true → gives mb len'))) ∧
  ∀ (p b : BitVec 2) (s : State) (bd : Band) (tl : Tile) (old ref : Mb), p ≠ 3 → s.bound = true →
    ready s p.toNat b.toNat bd → s.tile? p.toNat b.toNat s.opr.t = some tl → tl.mbs = [old] → bd.mbSize ≠ 0 →
    ceilDiv tl.width bd.mbSize * ceilDiv tl.height bd.mbSize = 1 → bd.inheritMv = true → bd.isFirst = false →
    refOf s tl 0 = some ref →
    let nb := if bd.mbSize ≠ bd.blkSize then 4 else 1
    let vx := inherited (vectorScale s bd) ref.mvX
    let vy := inherited (vectorScale s bd) ref.mvY
    let placed : Mb := { old with
      xpos := tl.xpos, ypos := tl.ypos, bufOffs := tl.ypos * bd.pitch + tl.xpos, qDelta := 0, cbp := 0
      bMvX := if s.params.codec = .indeo4 then 0 else old.bMvX
      bMvY := if s.params.codec = .indeo4 then 0 else old.bMvY }
    let gives := fun (mb : Mb) (len : Nat) => exec (.decmbinfo p b) s = .next { s with
      planes := (s.updMb p.toNat b.toNat s.opr.t 0 fun _ => mb).planes
      br := atBit s (aligned (s.br.index + len)), err := .none }
    (s.frameType ≠ 0 → streamHas s 1 → field s 0 1 = 1 → within s (aligned (s.br.index + 1)) →
      let mb : Mb := { placed with type := 1, mvX := vx, mvY := vy }
      mbWindow bd mb = true → gives mb 1) ∧
    (streamHas s (1 + nb) → field s 0 1 = 0 → field s 1 nb = 0 → within s (aligned (s.br.index + (1 + nb))) →
      let shared : Mb := { placed with
        type := ref.type
        qDelta := if bd.inheritQdelta = true ∧ (s.params.codec = .indeo4 ∨ bd.qdeltaPresent = true) then ref.qDelta else 0 }
      let mb : Mb :=
        if ref.type = 0 then { shared with mvX := 0, mvY := 0 }
        else if s.params.codec = .indeo4 ∧ ref.type = 2 then { shared with mvX := 0, mvY := 0, bMvX := -vx, bMvY := -vy }
        else { shared with mvX := vx, mvY := vy }
      (mb.type ≠ 0 → mbWindow bd mb = true) → gives mb (1 + nb))

/-- DECBAND (44_coeff_dequant.md R292). The first part is an empty INDEO5 band (45_frame_engine.md R353): the band's
buffers are selected, its flag is read, and its samples are kept, zeroed or refused as `P_EMPTY_BAND` says. The second is
a band of one tile under either codec: it is the band header, then, with the corrections applied, the tile's flag and
either EMPTYTILE or TILESIZE, DECMBINFO and DECTILEBLKS with the size test; the corrections are undone at the end.
That the command keeps `RES` is the model's reading (log 9). -/
def Obligations.EmptyBand : Prop :=
  (∀ (p b : BitVec 2) (s : State) (bd : Band), p ≠ 3 → s.MemoryOk → s.bound = true → ready s p.toNat b.toNat bd →
    s.params.codec = .indeo5 → streamHas s 8 → field s 0 8 % 2 = 1 → within s (aligned (s.br.index + 8)) →
    ∃ u, exec (.decband p b) s = .next u ∧
      u.planes = (s.updBand p.toNat b.toNat fun _ => { bd with
        buf := some s.rot.dstBuf, refBuf := some s.rot.refBuf, bRefBuf := none, isEmpty := true }).planes ∧
      (s.params.emptyBand ≠ .error → u = { s with
        planes := u.planes, mem := { s.mem with arena := u.mem.arena }
        br := atBit s (aligned (s.br.index + 8)), err := .none, scratch := u.scratch, draws := u.draws }) ∧
      (s.params.emptyBand = .keep → u.mem = s.mem) ∧
      (s.params.emptyBand = .zero → ∀ p' b' k a, u.sample p' b' k a
        = if p' = p.toNat ∧ b' = b.toNat ∧ k = s.rot.dstBuf.val then 0 else s.sample p' b' k a) ∧
      (s.params.emptyBand = .error → u.err = .badHeader ∧ u.mem = s.mem)) ∧
  ∀ (p b : BitVec 2) (s h : State) (bd hb : Band) (tl : Tile), p ≠ 3 → s.bound = true → ready s p.toNat b.toNat bd →
    let selected : Band :=
      if s.params.codec = .indeo4 ∧ s.frameType = 3 then
        { bd with buf := some s.rot.dstBuf, refBuf := some s.rot.bRefBuf, bRefBuf := some s.rot.refBuf }
      else { bd with buf := some s.rot.dstBuf, refBuf := some s.rot.refBuf, bRefBuf := none }
    exec (.bandhdr p b) (s.updBand p.toNat b.toNat fun _ => selected) = .next h → h.err = .none →
    h.band? p.toNat b.toNat = some hb → hb.isEmpty = false → hb.numTiles = 1 → hb.tiles = [tl] → tl.mbSize = hb.mbSize →
    streamHas h 1 →
    let flagged := fun (empty : Bool) => State.updTile
      { h with
        rvmaps := h.rvmaps.set hb.rvmapSel (correctAll h.rvmaps[hb.rvmapSel] hb.corrPairs)
        br := atBit h (h.br.index + 1), opr := { h.opr with t := 0 } }
      p.toNat b.toNat 0 fun tl => { tl with isEmpty := empty }
    let ends := fun (v : State) (e : ErrKind) => ∃ u, exec (.decband p b) s = .next u ∧ u = { v with
      opr := s.opr, rvmaps := h.rvmaps, err := e, scratch := u.scratch, draws := u.draws
      res := if e = .none then s.res else u.res }
    let closed := fun v : State => within v (aligned v.br.index) →
      ends { v with br := atBit v (aligned v.br.index) } .none
    (field h 0 1 = 1 → ∀ v, completes [.emptytile p b] (flagged true) v → closed v) ∧
    (field h 0 1 = 0 → ∀ (a v : State) (size : BitVec 24), completes [.tilesize] (flagged false) a →
      a.res = size.setWidth 64 →
      let sized := State.updTile { a with res := s.res } p.toNat b.toNat 0 fun tl => { tl with dataSize := size }
      (size = 0 → ends sized .tileSizeMismatch) ∧
      (size ≠ 0 → completes [.decmbinfo p b, .dectileblks p b] sized v →
        ((v.br.index - h.br.index) / 8 ≠ size.toNat → ends v .tileSizeMismatch) ∧
        ((v.br.index - h.br.index) / 8 = size.toNat → closed v)))

/-! ### Allocation -/

/-- INITPLANES (45_frame_engine.md R312, R313; 20_memory.md R84): the planes, bands and zero-filled buffers of a
configuration that fits, and ALLOC_FAIL for one that does not; either way the engine is left UNINIT. After ALLOC_FAIL the
planes and their buffers are absent (R313; log 28), so no band and no buffer exists. -/
def Obligations.PlanesAllocated : Prop :=
  ∀ s : State,
    let cfg := s.opr.cfg
    let w := cfg.picWidth.toNat
    let h := cfg.picHeight.toNat
    let fits := 0 < w ∧ 0 < h ∧ (w + 128) * (h + 128) < (2 ^ 31 - 1) / 8 ∧ 1 ≤ cfg.lumaBands.toNat ∧
      1 ≤ cfg.chromaBands.toNat
    let bands := fun p => if p = 0 then cfg.lumaBands.toNat else cfg.chromaBands.toNat
    let dim := fun (p d : Nat) =>
      if bands p = 1 then (if p = 0 then d else (d + 3) / 4) else ((if p = 0 then d else (d + 3) / 4) + 1) / 2
    let a := fun p => if p = 0 then 16 else 8
    (fits → ∃ t, exec .initplanes s = .next t ∧
      (∀ p, p < 3 → ∀ b, (b < bands p → ∃ bd, t.band? p b = some bd ∧ bd.plane = p ∧ bd.bandNum = b ∧
          bd.width = dim p w ∧ bd.height = dim p h ∧
          bd.pitch = (dim p w + (a p - 1)) / a p * a p ∧ bd.aheight = (dim p h + (a p - 1)) / a p * a p ∧
          bd.buf = none ∧ bd.refBuf = none ∧ bd.bRefBuf = none ∧ bd.tiles = [] ∧ bd.blkVlc = HuffTab.reset .blk) ∧
        (bands p ≤ b → t.band? p b = none) ∧
        ∀ k, (t.hasBuffer p b k = true ↔ b < bands p ∧
          (k = 0 ∨ k = 1 ∨ k = 2 ∧ 1 < cfg.lumaBands.toNat ∨ k = 3 ∧ s.params.codec = .indeo4))) ∧
      (∀ p b k off, t.sample p b k off = 0) ∧
      t = { s with
        alloc := .uninit, planes := t.planes, mem := { s.mem with arena := t.mem.arena }, err := .none }) ∧
    (¬fits → ∃ t, exec .initplanes s = .next t ∧ (∀ p b, t.band? p b = none) ∧ (∀ p b k, t.hasBuffer p b k = false) ∧
      t = { s with
        alloc := .uninit, planes := t.planes, mem := { s.mem with arena := [] }, err := .allocFail
        res := Config.freeRes s.draws, draws := s.draws + 1 })

/-- The geometry after a successful INITPLANES (45_frame_engine.md R314). -/
def Obligations.PlanesGeometry : Prop :=
  ∀ s : State, configFits s.opr.cfg = true → ∃ t, exec .initplanes s = .next t ∧ t.err = .none ∧
    ∀ p b bd, t.band? p b = some bd →
      (bd.width ≤ bd.pitch ∧ bd.height ≤ bd.aheight ∧ bd.pitch % (if p = 0 then 16 else 8) = 0 ∧
        bd.aheight % (if p = 0 then 16 else 8) = 0 ∧ bd.bufsize = bd.pitch * bd.aheight) ∧
      (∀ b' bd', t.band? p b' = some bd' → bd'.width = bd.width ∧ bd'.height = bd.height ∧ bd'.pitch = bd.pitch ∧
        bd'.aheight = bd.aheight) ∧
      (p = 0 → s.opr.cfg.lumaBands = 4 → ∃ pl, t.plane? 0 = some pl ∧ pl.width.toNat ≤ 2 * bd.width ∧
        pl.height.toNat ≤ 2 * bd.height)

/-- INITTILES where each plane has one band of one tile (45_frame_engine.md R317, the rule's example): the tile has the
band's size and its macroblocks, all zero, and refers to the luma tile in the chroma planes. -/
def Obligations.TilesBuilt : Prop :=
  ∀ (s : State) (bd : Fin 3 → Band), s.alloc = .allocated →
    (∀ p : Fin 3, s.planes[p].bands = [bd p]) →
    let dim := fun (p : Fin 3) (d : BitVec 16) => if p = 0 then d.toNat else (d.toNat + 3) / 4
    let count := fun p => ceilDiv (bd p).width (bd p).mbSize * ceilDiv (bd p).height (bd p).mbSize
    (∀ p, 0 < (bd p).width ∧ (bd p).width ≤ dim p s.opr.tileWidth ∧ 0 < (bd p).height ∧
      (bd p).height ≤ dim p s.opr.tileHeight ∧ (bd p).mbSize ≠ 0 ∧ count p = count 0) →
    ∃ t, exec .inittiles s = .next t ∧
      (∀ p : Fin 3, t.planes[p] = { s.planes[p] with bands := [{ bd p with
        numTiles := 1
        tiles := [{
          xpos := 0, ypos := 0, width := (bd p).width, height := (bd p).height, mbSize := (bd p).mbSize
          isEmpty := false, dataSize := 0, mbs := List.replicate (count p) Mb.zero
          refTile := if p = 0 then none else some 0 }] }] }) ∧
      t = { s with planes := t.planes, err := .none }

/-- The tiles INITTILES lays out partition the band (45_frame_engine.md R318). -/
def Obligations.TilesPartition : Prop :=
  ∀ (bd : Band) (tw th d : Nat), 0 < tw → 0 < th →
    let tiles := (tilePositions bd tw th).map fun e => freshTile bd tw th e.1 e.2 d
    (∀ x y, x < bd.width → y < bd.height → ∃! i : Nat, ∃ tl : Tile, tiles[i]? = some tl ∧
      tl.xpos ≤ x ∧ x < tl.xpos + tl.width ∧ tl.ypos ≤ y ∧ y < tl.ypos + tl.height) ∧
    (∀ tl ∈ tiles, tl.xpos + tl.width ≤ bd.width ∧ tl.ypos + tl.height ≤ bd.height ∧
      1 ≤ tl.width ∧ tl.width ≤ tw ∧ 1 ≤ tl.height ∧ tl.height ≤ th) ∧
    (tiles.map fun tl => tl.width * tl.height).sum = bd.width * bd.height ∧
    tiles.length = ceilDiv bd.width tw * ceilDiv bd.height th

/-! ### Headers -/

/-- PICHDR (45_frame_engine.md R330, R350). The frame type is shifted into `prev_frame_type`. The null frames of both
codecs; an INDEO4 frame of another type with the size coded by the escape, one tile and one band in each plane, the cached
configuration or a new one (R310), the default sizes (R316), the tiles (R317) and no optional field; the INDEO5 INTER,
INTER_NOREF and, in a scalable stream, INTER_SCAL headers without optional fields, INTER_SCAL refused in another stream;
the INDEO5 INTRA header, which runs GOPHDR and marks a failed one.
That the command keeps `RES` is the model's reading (log 9). -/
def Obligations.PicHeaderCompletes : Prop :=
  ∀ s : State, s.bound = true →
    (∀ ft : BitVec 3, s.params.codec = .indeo4 → ft = 5 ∨ ft = 6 → streamHas s 24 → field s 0 18 = 0x3FFF8 →
      field s 18 3 = ft.toNat → field s 22 1 = 0 →
      let shifted := fun size len : Nat => { s with
        br := atBit s (s.br.index + len), prevFrameType := s.frameType, frameType := ft, err := .none
        hdr := { s.hdr with hasTransp := decide (field s 21 1 = 1), dataSize := BitVec.ofNat 24 size } }
      (field s 23 1 = 0 → exec .pichdr s = .next (shifted 0 24)) ∧
      (field s 23 1 = 1 → streamHas s 48 → exec .pichdr s = .next (shifted (field s 24 24) 48))) ∧
    (s.params.codec = .indeo5 → streamHas s 16 → field s 0 5 = 0x1F →
      let named : Header := { s.hdr with frameNum := BitVec.ofNat 20 (field s 8 8) }
      (field s 5 3 = 4 → within s (aligned (s.br.index + 16)) →
        exec .pichdr s = .next { s with
          br := atBit s (aligned (s.br.index + 16)), prevFrameType := s.frameType, frameType := 4, err := .none
          hdr := named }) ∧
      (∀ ft : BitVec 3, ft = 1 ∨ ft = 3 ∨ ft = 2 ∧ s.hdr.isScalable = true → field s 5 3 = ft.toNat →
        streamHas s 27 → field s 16 8 = 0 →
        within s (aligned (s.br.index + 27)) →
        exec .pichdr s = .next { s with
          br := atBit s (aligned (s.br.index + 27)), prevFrameType := s.frameType, frameType := ft, err := .none
          hdr := { named with frameFlags := 0, picHdrSize := 0, checksum := 0 }
          mbVlc := match s.params.huffNotCoded with
            | .reuse => s.mbVlc
            | .default7 => { s.mbVlc with tab := .predef .mb 7 } }) ∧
      (field s 5 3 = 2 → s.hdr.isScalable = false →
        exec .pichdr s = .next (State.raised .badHeader { s with
          br := atBit s (s.br.index + 16), prevFrameType := s.frameType, frameType := 1, hdr := named })) ∧
      (∀ g : State, field s 5 3 = 0 →
        exec .gophdr { s with
          br := atBit s (s.br.index + 16), prevFrameType := s.frameType, frameType := 0, hdr := named } = .next g →
        (g.err ≠ .none → exec .pichdr s = .next { g with hdr := { g.hdr with gopInvalid := true } }) ∧
        (g.err = .none → s.params.huffNotCoded = .reuse → streamHas g 11 → field g 0 8 = 0 →
          within g (aligned (g.br.index + 11)) →
          exec .pichdr s = .next { g with
            br := atBit g (aligned (g.br.index + 11))
            hdr := { g.hdr with gopInvalid := false, frameFlags := 0, picHdrSize := 0, checksum := 0 } }))) ∧
    (∀ (ft : BitVec 3) (u : State) (bd : Fin 3 → Band), s.params.codec = .indeo4 → ft.toNat < 5 → streamHas s 83 →
      field s 0 18 = 0x3FFF8 → field s 18 3 = ft.toNat → field s 22 1 = 0 → field s 23 1 = 0 → field s 24 1 = 0 →
      field s 25 3 = 7 → field s 60 1 = 0 → field s 61 2 = 0 → field s 63 2 = 3 → field s 65 2 = 3 →
      field s 67 1 = 0 → field s 68 1 = 0 → field s 69 1 = 0 → field s 70 1 = 0 → s.params.huffNotCoded = .reuse →
      field s 71 1 = 0 → field s 79 1 = 0 → field s 80 1 = 0 → field s 81 1 = 0 →
      within s (aligned (s.br.index + 83)) →
      let w := field s 44 16
      let h := field s 28 16
      let cfg : PicConf := {
        picWidth := BitVec.ofNat 16 w, picHeight := BitVec.ofNat 16 h
        chromaWidth := BitVec.ofNat 16 ((w + 3) / 4), chromaHeight := BitVec.ofNat 16 ((h + 3) / 4)
        tileWidth := BitVec.ofNat 16 w, tileHeight := BitVec.ofNat 16 h, lumaBands := 1, chromaBands := 1 }
      (s.picConf = cfg ∧ s.alloc = .allocated ∧ u = s ∨
        s.picConf ≠ cfg ∧ ∃ v, completes [.initplanes]
            { s with opr := { s.opr with cfg := cfg }, hdr := { s.hdr with isScalable := false } } v ∧
          u = { s with planes := v.planes, mem := v.mem, picConf := cfg, alloc := .allocated }) →
      (∀ p : Fin 3, u.planes[p].bands = [bd p]) →
      let dim := fun (p : Fin 3) (d : Nat) => if p = 0 then d else (d + 3) / 4
      let mbs := fun p : Fin 3 => if p = 0 then 16 else 4
      let count := fun p : Fin 3 => ceilDiv (bd p).width (mbs p) * ceilDiv (bd p).height (mbs p)
      (∀ p, 0 < (bd p).width ∧ (bd p).width ≤ dim p w ∧ 0 < (bd p).height ∧ (bd p).height ≤ dim p h ∧
        count p = count 0) →
      ∃ t, exec .pichdr s = .next t ∧
        (∀ p : Fin 3, t.planes[p] = { u.planes[p] with bands := [{ bd p with
          mbSize := mbs p, blkSize := if p = 0 then 8 else 4, numTiles := 1
          tiles := [{
            xpos := 0, ypos := 0, width := (bd p).width, height := (bd p).height, mbSize := mbs p
            isEmpty := false, dataSize := 0, mbs := List.replicate (count p) Mb.zero
            refTile := if p = 0 then none else some 0 }] }] }) ∧
        t = { u with
          planes := t.planes, br := atBit s (aligned (s.br.index + 83)), prevFrameType := s.frameType
          frameType := ft, err := .none
          hdr := { s.hdr with
            hasBFrames := s.hdr.hasBFrames || decide (ft = 3), hasTransp := decide (field s 21 1 = 1), dataSize := 0
            usesTiling := false, isScalable := false, frameNum := 0, rvmapSel := 8
            inImf := decide (field s 72 1 = 1), inQ := decide (field s 73 1 = 1)
            picGlobQuant := BitVec.ofNat 5 (field s 74 5), unknown1 := 0, checksum := 0 } })

/-- BANDHDR (45_frame_engine.md R340, R353): an empty INDEO5 band, the INDEO5 header of flag byte 0 (the rule's
example), an empty INDEO4 band, which still selects its quantiser tables, and the INDEO4 header that selects a transform
(R342, 30_encoding.md R126), a scan (R343) and a quantiser matrix (R341), with the picture's block table and without the
optional fields.
That the command keeps `RES` is the model's reading (log 9). -/
def Obligations.BandHeaderCompletes : Prop :=
  ∀ (p b : BitVec 2) (s : State) (bd : Band), p ≠ 3 → s.bound = true → s.band? p.toNat b.toNat = some bd →
    let gives := fun (bd' : Band) (i : Nat) => exec (.bandhdr p b) s = .next { s with
      planes := (s.updBand p.toNat b.toNat fun _ => bd').planes, br := atBit s i, err := .none }
    (s.params.codec = .indeo5 → streamHas s 8 → field s 0 8 % 2 = 1 →
      gives { bd with isEmpty := true } (s.br.index + 8)) ∧
    (s.params.codec = .indeo5 → s.params.huffNotCoded = .reuse → streamHas s 14 → field s 0 8 = 0 →
      s.hdr.frameFlags.getLsbD 7 = false → field s 8 1 = 0 → within s (aligned (s.br.index + 14)) →
      gives { bd with
        isEmpty := false, dataSize := 0, inheritMv := false, inheritQdelta := true, qdeltaPresent := false
        numCorr := 0, rvmapSel := 8, checksumPresent := false, globQuant := BitVec.ofNat 5 (field s 9 5) }
        (aligned (s.br.index + 14))) ∧
    (s.params.codec = .indeo4 → streamHas s 7 → field s 0 2 = p.toNat → field s 2 4 = b.toNat → field s 6 1 = 1 →
      bd.scan ≠ none → within s (aligned (s.br.index + 7)) →
      ∀ t : Fin 6, s.params.quant4.indexToTab[bd.quantMat.toNat]? = some t → (bd.blkSize = 4 → t.val < 5) →
      bd.blkSize = 8 ∨ bd.blkSize = 4 →
      ∃ intra inter,
        (bd.blkSize = 8 → intra = (s.params.quant4.intra8[t]).toList ∧ inter = (s.params.quant4.inter8[t]).toList) ∧
        (bd.blkSize = 4 → s.params.quant4.intra4[t.val]?.map Vector.toList = some intra ∧
          s.params.quant4.inter4[t.val]?.map Vector.toList = some inter) ∧
        gives { bd with
          isEmpty := true, intraBase := some intra, interBase := some inter, intraScale := none, interScale := none }
          (aligned (s.br.index + 7))) ∧
    (∀ e ∈ transforms4, ∀ (is2d : Bool) (scan : List Nat) (t : Fin 6) (halfpel im iq : Bool),
      s.params.codec = .indeo4 → streamHas s 38 → field s 0 2 = p.toNat → field s 2 4 = b.toNat → field s 6 1 = 0 →
      field s 7 1 = 0 → field s 8 2 = halfpel.toNat → field s 10 1 = 0 → field s 11 2 < 3 → field s 13 1 = im.toNat →
      field s 14 1 = iq.toNat → field s 20 1 = 0 → field s 21 5 = e.1 →
      let blk := if field s 11 2 = 2 then 4 else 8
      e.2.2.2 = blk → (blk = 4 ↔ 5 ≤ field s 26 4 ∧ field s 26 4 ≤ 9) → s.params.scans4[field s 26 4]? = some scan →
      s.params.is2d4[e.1]? = some is2d → field s 30 5 ≠ 31 → s.params.quant4.indexToTab[field s 30 5]? = some t →
      (blk = 4 → t.val < 5) → field s 35 1 = 0 → field s 36 1 = 0 → field s 37 1 = 0 →
      within s (aligned (s.br.index + 38)) →
      ∃ intra inter,
        (blk = 8 → intra = (s.params.quant4.intra8[t]).toList ∧ inter = (s.params.quant4.inter8[t]).toList) ∧
        (blk = 4 → s.params.quant4.intra4[t.val]?.map Vector.toList = some intra ∧
          s.params.quant4.inter4[t.val]?.map Vector.toList = some inter) ∧
        exec (.bandhdr p b) s = .next { s with
          planes := (s.updBand p.toNat b.toNat fun _ => { bd with
            isEmpty := false, isHalfpel := halfpel, checksumPresent := false
            mbSize := if field s 11 2 = 0 then 16 else if field s 11 2 = 1 then 8 else 4, blkSize := blk
            inheritMv := im, inheritQdelta := iq, globQuant := BitVec.ofNat 5 (field s 15 5)
            invTransform := some e.2.1, dcTransform := some e.2.2.1, is2d := is2d, transformSize := blk
            scan := some scan, scanSize := blk, quantMat := BitVec.ofNat 5 (field s 30 5)
            intraBase := some intra, interBase := some inter, intraScale := none, interScale := none
            blkVlc := { bd.blkVlc with tab := .pic }, rvmapSel := 8, numCorr := 0 }).planes
          br := atBit s (aligned (s.br.index + 38)), err := .none
          hdr := { s.hdr with
            usesFullpel := s.hdr.usesFullpel || !halfpel
            usesHaar := s.hdr.usesHaar || decide (e.1 = 0 ∨ e.1 = 1 ∨ e.1 = 2 ∨ e.1 = 10) } })

/-- GOPHDR of the cached configuration of one luma band with the picture size coded by the escape (45_frame_engine.md R351,
R352, R354, R355): no plane is rebuilt, and the bands take the sizes, transforms, scans and tables of their place.
The command has its effect under either codec (log 26). That the command keeps `RES` is the model's reading (log 9). -/
def Obligations.GopHeaderSelects : Prop :=
  ∀ (s : State) (b0 b1 b2 : Band) (hp0 mbf0 hp1 mbf1 : Bool), s.bound = true → s.hdr.gopInvalid = false →
    s.band? 0 0 = some b0 → s.band? 1 0 = some b1 → s.band? 2 0 = some b2 →
    let tail := aligned (s.br.index + 53) - s.br.index
    streamHas s (tail + 24) → field s 0 8 = 0 → field s 8 2 = 0 → field s 10 1 = 0 → field s 11 4 = 15 →
    s.picConf = {
      picWidth := BitVec.ofNat 16 (field s 28 13), picHeight := BitVec.ofNat 16 (field s 15 13)
      chromaWidth := BitVec.ofNat 16 ((field s 28 13 + 3) / 4)
      chromaHeight := BitVec.ofNat 16 ((field s 15 13 + 3) / 4)
      tileWidth := BitVec.ofNat 16 (field s 28 13), tileHeight := BitVec.ofNat 16 (field s 15 13)
      lumaBands := 1, chromaBands := 1 } →
    field s 41 1 = hp0.toNat → field s 42 1 = mbf0.toNat → field s 43 1 = 0 → field s 44 1 = 0 → field s 45 2 = 0 →
    field s 47 1 = hp1.toNat → field s 48 1 = mbf1.toNat → field s 49 1 = 1 → field s 50 1 = 0 → field s 51 2 = 0 →
    b1.blkSize = 4 → b1.mbSize = (if mbf1 then 4 else 8) → field s (tail + 23) 1 = 0 →
    within s (aligned (s.br.index + (tail + 24))) →
    ∃ x y z, x = { b0 with
        isHalfpel := hp0, mbSize := if mbf0 then 8 else 16, blkSize := 8
        invTransform := some .slant8, dcTransform := some .dcslant8, is2d := true, transformSize := 8
        scan := some s.params.scans5[0], scanSize := 8, quantMat := 0
        intraBase := some (s.params.quant5.base8Intra[0]).toList
        interBase := some (s.params.quant5.base8Inter[0]).toList
        intraScale := some (s.params.quant5.scale8Intra[0]).toList
        interScale := some (s.params.quant5.scale8Inter[0]).toList } ∧
      y = { b1 with
        isHalfpel := hp1
        invTransform := some .slant4, dcTransform := some .dcslant4, is2d := true, transformSize := 4
        scan := some s.params.scans5[4], scanSize := 4, quantMat := 5
        intraBase := some s.params.quant5.base4Intra.toList, interBase := some s.params.quant5.base4Inter.toList
        intraScale := some s.params.quant5.scale4Intra.toList
        interScale := some s.params.quant5.scale4Inter.toList } ∧
      z = { b2 with
        width := y.width, height := y.height, mbSize := y.mbSize, blkSize := y.blkSize, isHalfpel := y.isHalfpel
        intraBase := y.intraBase, interBase := y.interBase, intraScale := y.intraScale, interScale := y.interScale
        scan := y.scan, invTransform := y.invTransform, dcTransform := y.dcTransform, is2d := y.is2d
        transformSize := y.transformSize } ∧
      exec .gophdr s = .next { s with
        planes := (((s.updBand 0 0 fun _ => x).updBand 1 0 fun _ => y).updBand 2 0 fun _ => z).planes
        br := atBit s (aligned (s.br.index + (tail + 24))), err := .none
        hdr := { s.hdr with gopFlags := 0, gopHdrSize := 0 } }

/-! ### Rotation, frames, output -/

/-- SWITCHBUF (45_frame_engine.md R360, R361): the default rotation of each codec, by the previous and the new frame type;
another `P_ROTATE4` or `P_ROTATE5` is a function of the two frame types and the indices too (R362, log 6), which keeps the
destination apart from the references a frame of the codec uses (20_memory.md R93). -/
def Obligations.RotationRule : Prop :=
  ∀ s : State,
    let r := s.rot
    let gives := fun (r' : Rotation) => exec .switchbuf s = .next { s with rot := r', err := .none }
    let isref := fun t : BitVec 3 => t = 0 ∨ t = 1 ∨ t = 2
    let bit := fun b : Bool => if b then (1 : Fin 4) else 0
    (s.params.codec = .indeo4 → s.params.rotate4 = .standard →
      (isref s.prevFrameType → isref s.frameType → gives { r with dstBuf := r.refBuf, refBuf := r.dstBuf }) ∧
      (isref s.prevFrameType → ¬isref s.frameType →
        gives { r with dstBuf := r.bRefBuf, refBuf := r.dstBuf, bRefBuf := r.refBuf }) ∧
      (¬isref s.prevFrameType → gives r)) ∧
    (s.params.codec = .indeo5 → s.params.rotate5 = .standard → ∀ r1,
      (s.prevFrameType = 0 ∨ s.prevFrameType = 1) ∧
          r1 = { r with bufSwitch := !r.bufSwitch, dstBuf := bit (!r.bufSwitch), refBuf := bit r.bufSwitch } ∨
        s.prevFrameType = 2 ∧ r1 = { r with
          interScal := true, dstBuf := if r.interScal then r.ref2Buf else 2, ref2Buf := r.dstBuf
          refBuf := r.dstBuf } ∨
        (3 ≤ s.prevFrameType.toNat ∧ r1 = r) →
      (s.frameType = 0 →
        gives { r1 with bufSwitch := false, interScal := false, dstBuf := 0, refBuf := 1 }) ∧
      (s.frameType = 1 →
        gives { r1 with interScal := false, dstBuf := bit r1.bufSwitch, refBuf := bit (!r1.bufSwitch) }) ∧
      (2 ≤ s.frameType.toNat → gives r1)) ∧
    ∀ n, (s.params.codec = .indeo4 → s.params.rotate4 = .other n →
        let free := Config.otherRotate4 n s.prevFrameType s.frameType r
        ∃ r' : Rotation, gives r' ∧ r'.dstBuf ≠ r'.refBuf ∧ r'.dstBuf ≠ r'.bRefBuf ∧ r'.refBuf ≠ r'.bRefBuf ∧
          r' = { free with refBuf := r'.refBuf, bRefBuf := r'.bRefBuf } ∧
          (free.dstBuf ≠ free.refBuf → free.dstBuf ≠ free.bRefBuf → free.refBuf ≠ free.bRefBuf → r' = free)) ∧
      (s.params.codec = .indeo5 → s.params.rotate5 = .other n →
        let free := Config.otherRotate5 n s.prevFrameType s.frameType r
        ∃ r' : Rotation, gives r' ∧ r'.dstBuf ≠ r'.refBuf ∧ r' = { free with refBuf := r'.refBuf } ∧
          (free.dstBuf ≠ free.refBuf → r' = free))

/-- The worked rotation sequences (45_frame_engine.md R364), and the rotation invariants (R363) over every list of frame
types from reset, one rotation for each frame (R362; log 40): under INDEO4 the destination and the two references are three
buffers, under INDEO5 the destination is not the reference. The sequences are of the default rotations, the invariants of
every value of `P_ROTATE4` and `P_ROTATE5`, which the model makes keep R93 (20_memory.md; `Rotation.apart`, the model's
choice, log 6). -/
def Obligations.RotationSequences : Prop :=
  ∀ p : Params,
    let states := rotations p 0 Rotation.reset
    (p.codec = .indeo5 →
      (p.rotate5 = .standard → (states [0, 1, 1, 2, 3, 1]).map (fun r => (r.bufSwitch, r.interScal, r.ref2Buf, r.dstBuf, r.refBuf))
        = [(false, false, 2, 0, 1), (true, false, 2, 1, 0), (false, false, 2, 0, 1), (true, false, 2, 1, 0),
           (true, true, 1, 2, 1), (true, false, 1, 1, 0)]) ∧
      ∀ types, ∀ r ∈ states types, r.dstBuf ≠ r.refBuf) ∧
    (p.codec = .indeo4 →
      (p.rotate4 = .standard → (states [0, 2, 3, 2, 4, 2]).map (fun r => (r.dstBuf, r.refBuf, r.bRefBuf))
        = [(1, 0, 3), (0, 1, 3), (3, 0, 1), (3, 0, 1), (1, 3, 0), (1, 3, 0)]) ∧
      ∀ types, ∀ r ∈ states types, r.dstBuf ≠ r.refBuf ∧ r.dstBuf ≠ r.bRefBuf ∧ r.refBuf ≠ r.bRefBuf)

/-- DECFRAME (45_frame_engine.md R371, R372): BIND only binds; an INDEO5 NULL frame is rotated and keeps the output; an
INDEO4 NULL_LAST frame ends after its header; a frame with band data is its picture header, the rotation, the bands with
`buf_invalid[dst_buf]` set while they are decoded, the output commands, and OUT_VALID; one whose bands fail is aborted and
leaves that buffer invalid (R410). `frameBands p` is DECBAND of each band of plane `p` in turn.
That the command keeps `RES` is the model's reading (log 9). -/
def Obligations.FrameBindAndNull : Prop :=
  ∀ s : State,
    let o := s.opr
    let s0 : State := { s with br := ⟨some o.chunk, 8 * o.len, 0⟩ }
    (o.mode = .bind → exec .decframe s = .next { s0 with err := .none }) ∧
    (o.mode = .full → s.params.codec = .indeo5 → streamHas s0 16 → field s0 0 5 = 0x1F → field s0 5 3 = 4 →
      s.hdr.gopInvalid = false → s.hdr.gopFlags.getLsbD 5 = false → s.alloc = .allocated →
      s.hdr.isScalable = false → (∀ p : Fin 3, ∃ bd k, s.band? p 0 = some bd ∧ bd.buf = some k) →
      let rot := advance s.params s.frameType 4 s.rot
      s.bufInvalid[rot.dstBuf] = false →
      ∃ u, exec .decframe s = .next u ∧ u = { s0 with
        br := { s0.br with index := 16 }, prevFrameType := s.frameType, frameType := 4, rot := rot
        frameAborted := false, fstep := .idle, err := .none, scratch := u.scratch, draws := u.draws
        hdr := { s.hdr with frameNum := BitVec.ofNat 20 (field s0 8 8) } }) ∧
    (o.mode = .full → s.params.codec = .indeo4 → streamHas s0 24 → field s0 0 18 = 0x3FFF8 → field s0 18 3 = 6 →
      field s0 22 1 = 0 → field s0 23 1 = 0 → s.hdr.gopInvalid = false →
      ∃ u, exec .decframe s = .next u ∧ u = { s0 with
        br := { s0.br with index := 24 }, prevFrameType := s.frameType, frameType := 6
        frameAborted := false, fstep := .idle, err := .none, scratch := u.scratch, draws := u.draws
        hdr := { s.hdr with hasTransp := decide (field s0 21 1 = 1), dataSize := 0 } }) ∧
    (∀ h : State, o.mode = .full → completes [.pichdr] { s0 with frameAborted := false } h → h.hdr.gopInvalid = false →
      h.hdr.gopFlags.getLsbD 5 = false → h.alloc = .allocated →
      (s.params.codec = .indeo4 → h.frameType.toNat < 5) → (s.params.codec = .indeo5 → h.frameType ≠ 4) →
      let rot := advance s.params h.prevFrameType h.frameType h.rot
      let begun : State := { h with rot := rot, bufInvalid := h.bufInvalid.set rot.dstBuf true, fstep := .bands, err := s.err }
      (∀ (d v : State) (first : Instr), forEach frameBands [0, 1, 2] begun = .ok () d →
        first = (if h.hdr.isScalable then if s.params.codec = .indeo4 then .recomphaar else .recomp53 else .outplane 0 0) →
        completes [first, .outplane 2 0, .outplane 1 0]
          { d with bufInvalid := h.bufInvalid.set rot.dstBuf false } v →
        ∃ u, exec .decframe s = .next u ∧
          u = { v with outValid := true, fstep := .idle, scratch := u.scratch, draws := u.draws }) ∧
      (∀ (e : ErrKind) (d : State), forEach frameBands [0, 1, 2] begun = .error e d →
        ∃ u, exec .decframe s = .next u ∧
          u = { d with
            frameAborted := true, fstep := .idle, outValid := s.outValid, mem := { d.mem with out := s.mem.out }
            err := e, bufInvalid := h.bufInvalid.set rot.dstBuf true
            res := u.res, scratch := u.scratch, draws := u.draws }))

/-- The frame abort (60_exceptions.md R410; 45_frame_engine.md R372 (a)): a DECFRAME in FULL mode leaves the sequencer idle
and the chunk bound; when it raises it sets FRAME_ABORTED, and the output planes and OUT_VALID are as before it. -/
def Obligations.FrameAbortRule : Prop :=
  ∀ s : State, s.opr.mode = .full → ∃ t, exec .decframe s = .next t ∧
    t.fstep = .idle ∧ t.br.buf = some s.opr.chunk ∧ t.br.sizeBits = 8 * s.opr.len ∧
    (t.err ≠ .none → t.frameAborted = true) ∧
    (t.frameAborted = true → t.outValid = s.outValid ∧ t.mem.out = s.mem.out)

/-- What no command changes but those named for it: every command ends in a next state (60_exceptions.md R409); FSTEP,
FRAME_ABORTED, OUT_VALID (45_frame_engine.md R370, 60_exceptions.md R410); the output planes (20_memory.md R85); the band
buffers; the cursor; the rotation (10_state.md R36); the tables (R42); the parameters (70_reset_and_hazards.md R440). -/
def Obligations.CommandFrames : Prop :=
  ∀ (i : Instr) (s : State), ∃ t, exec i s = .next t ∧
    (i ≠ .decframe → i ≠ .reset →
      t.fstep = s.fstep ∧ t.frameAborted = s.frameAborted ∧ t.outValid = s.outValid ∧ t.bufInvalid = s.bufInvalid ∧
      (i ≠ .switchbuf → t.rot = s.rot)) ∧
    (writesOut i = false → t.mem.out = s.mem.out) ∧
    (writesArena i = false → t.mem.arena = s.mem.arena) ∧
    (movesCursor i = false → t.br = s.br) ∧
    (i ≠ .reset → t.predefMb = s.predefMb ∧ t.predefBlk = s.predefBlk) ∧
    t.params = s.params ∧ t.port = s.port ∧ t.opr = s.opr ∧ t.outPitch = s.outPitch

/-- OUTPLANE (45_frame_engine.md R380, R383): every pixel of the plane is the sample of band 0 with 128 added and clipped,
and no other byte changes; a band without a selected buffer writes nothing. An output pitch below the plane's width counts
as the width (the model's choice, log 16; 20_memory.md R85 has the host choose at least the width). -/
def Obligations.OutPlanePixels : Prop :=
  ∀ (p : BitVec 2) (s : State) (pl : Plane) (bd : Band), p ≠ 3 → s.plane? p.toNat = some pl →
    s.band? p.toNat 0 = some bd →
    let target : Fin 3 := if p = 0 then 0 else if p = 1 then 2 else 1
    let op := max s.outPitch[target] pl.width.toNat
    let w := pl.width.toNat
    let h := pl.height.toNat
    (bd.buf = none → exec (.outplane p 0) s = .next { s with err := .none }) ∧
    (∀ k : Fin 4, bd.buf = some k → s.hasBuffer p.toNat 0 k = true →
      (∀ x y, x < w → y < h → y * bd.pitch + x < bd.pitch * bd.aheight) →
      ∃ t, exec (.outplane p 0) s = .next t ∧
        (∀ x y, x < w → y < h → t.outByte target (y * op + x)
          = some (pixel (s.sample p.toNat 0 k (y * bd.pitch + x)).toInt)) ∧
        (∀ (q : Fin 3) a, ¬(q = target ∧ ∃ x y, x < w ∧ y < h ∧ a = y * op + x) → t.outByte q a = s.outByte q a) ∧
        t = { s with mem := { s.mem with out := t.mem.out }, err := .none, draws := t.draws })

/-- RECOMPHAAR and RECOMP53 (45_frame_engine.md R381, R382): every pixel of `OUT[0]` from the four band samples of its
place, by the Haar sums or, with the default `P_RECOMP53`, by the 5/3 lines down the columns and along the rows; no other
byte changes. Both commands have their effect under either codec (log 26), and an output pitch below the plane's width
counts as the width (log 16). -/
def Obligations.RecompPixels : Prop :=
  ∀ (s : State) (ks : Fin 4 → Fin 4) (bd : Fin 4 → Band),
    s.planes[0].bands = [bd 0, bd 1, bd 2, bd 3] → (∀ k, (bd k).buf = some (ks k)) →
    (∀ k : Fin 4, s.hasBuffer 0 k (ks k) = true) →
    let w := s.planes[0].width.toNat
    let h := s.planes[0].height.toNat
    (∀ (k : Fin 4) i j, i < (w + 1) / 2 → j < (h + 1) / 2 →
      j * (bd 0).pitch + i < (bd k).pitch * (bd k).aheight) →
    let b := fun (k : Fin 4) i j => (s.sample 0 k (ks k) (j * (bd 0).pitch + i)).toInt
    let op := max s.outPitch[0] w
    let only := fun t : State =>
      (∀ (q : Fin 3) a, ¬(q = 0 ∧ ∃ x y, x < w ∧ y < h ∧ a = y * op + x) → t.outByte q a = s.outByte q a) ∧
      t = { s with mem := { s.mem with out := t.mem.out }, err := .none, draws := t.draws }
    (∃ t, exec .recomphaar s = .next t ∧ only t ∧ ∀ x y, x < w → y < h →
      let c := fun k => b k (x / 2) (y / 2)
      let sx : Int := if x % 2 = 0 then 1 else -1
      let sy : Int := if y % 2 = 0 then 1 else -1
      t.outByte 0 (y * op + x) = some (pixel ((c 0 + sy * c 1 + sx * c 2 + sx * sy * c 3 + 2) / 4))) ∧
    (∃ t, exec .recomp53 s = .next t ∧ only t ∧ (s.params.recomp53 = .standard → ∀ x y, x < w → y < h →
      let i := x / 2
      let j := y / 2
      let l := i - 1
      let r := if 2 * i + 2 < w then i + 1 else i
      let u := j - 1
      let d := if 2 * j + 2 < h then j + 1 else j
      let row := fun (lo hi : Fin 4) (v : Nat) =>
        if x % 2 = 0 then lineEven (b lo i v) (b hi l v) (b hi i v)
        else lineOdd (b lo i v) (b lo r v) (b hi l v) (b hi i v) (b hi r v)
      let v := if y % 2 = 0 then lineEven (row 0 2 j) (row 1 3 u) (row 1 3 j)
        else lineOdd (row 0 2 j) (row 0 2 d) (row 1 3 u) (row 1 3 j) (row 1 3 d)
      t.outByte 0 (y * op + x) = some (pixel (v / 64))))

/-- Corrections applied and then undone leave a run-value map unchanged (44_coeff_dequant.md R298). -/
def Obligations.CorrectionRoundTrip : Prop :=
  ∀ (m : RvMap) (pairs : List (Byte × Byte)), correctAll (correctAll m pairs) pairs.reverse = m

/-! ### Reset and invariants -/

/-- RESET (70_reset_and_hazards.md R440, R441): every element at its reset value, the parameters and the model's own
fields unchanged (log 34). The word STATUS, 0 after it: the code of the error kind in bits 7:0, FRAME_ABORTED, OUT_VALID
and ALLOC in bits 8, 9 and 10, and zeros above (10_state.md R32; 60_exceptions.md R401). -/
def Obligations.ResetLeaves : Prop :=
  (∀ s : State, s.statusWord.extractLsb' 0 8 = s.err.code ∧ (∃ e ∈ errCodes, s.err = e.1 ∧ s.err.code.toNat = e.2) ∧
    s.statusWord.getLsbD 8 = s.frameAborted ∧ s.statusWord.getLsbD 9 = s.outValid ∧
    s.statusWord.getLsbD 10 = decide (s.alloc = .allocated) ∧ s.statusWord.toNat < 2 ^ 11) ∧
  ∀ s : State, ∃ t, exec .reset s = .next t ∧
    t.res = 0 ∧ t.err = .none ∧ t.frameAborted = false ∧ t.outValid = false ∧ t.statusWord = 0 ∧ t.fstep = .idle ∧
    t.br = ⟨none, 0, 0⟩ ∧ t.frameType = 0 ∧ t.prevFrameType = 0 ∧ t.rot = ⟨false, 0, 1, 2, 3, false⟩ ∧
    (∀ k : Fin 4, t.bufInvalid[k] = false) ∧ t.picConf = ⟨0, 0, 0, 0, 0, 0, 0, 0⟩ ∧ t.hdr = Header.zero ∧
    t.alloc = .uninit ∧
    (∀ h, h = t.mbVlc ∨ h = t.blkVlc → h.tabSel = 7 ∧ h.custDesc.numRows = 0 ∧ h.custTab = none) ∧
    t.mbVlc.tab = .predef .mb 7 ∧ t.blkVlc.tab = .predef .blk 7 ∧ t.slot48 = none ∧ t.TablesOk ∧
    (∀ p : Fin 3, t.planes[p].bands = []) ∧ (∀ p b k, t.hasBuffer p b k = false) ∧
    t.params = s.params ∧ t.outPitch = s.outPitch ∧ t.port = s.port ∧ t.opr = s.opr ∧ t.draws = s.draws

/-- The state after reset meets every invariant, whatever the parameters. Its predefined tables are those R171 builds from
the descriptors under the instance's parameters, absent where the build fails (10_state.md R42; 41_vlc.md R182); and the
default descriptors give 16 tables whose codes are at most 13 bits long, so that no build fails at reset. That block
descriptor 7, when it is the default, keeps 256 of its 264 codes is the model's choice (log 42). -/
def Obligations.ResetMeetsInvariants : Prop :=
  ∀ p : Params,
    let s := State.resetWith p
    (s.MemoryOk ∧ s.CursorOk ∧ s.TablesOk ∧ s.RotationOk ∧ s.IdleOk ∧ s.GeometryOk) ∧
    (∀ i : Fin 8, s.predefMb[i] = (huffBuild p p.predefMbDesc[i]).toOption ∧
      (i ≠ 7 ∨ descSame p.predefBlkDesc[i] defaultBlkDesc[i] = false ∨ p.over256 = .truncate →
        s.predefBlk[i] = (huffBuild p p.predefBlkDesc[i]).toOption)) ∧
    (p.predefMbDesc = defaultMbDesc → p.predefBlkDesc = defaultBlkDesc → 13 ≤ p.maxCodeLenIvi →
      ∀ i : Fin 8, ∀ t, t = s.predefMb[i] ∨ t = s.predefBlk[i] →
        ∃ tbl, t = some tbl ∧ ∀ c ∈ tbl.codes, c.bits.length ≤ 13)

/-- Every step keeps the canonical form of the memory. -/
def Obligations.StepKeepsMemory : Prop := ∀ s t : State, s.MemoryOk → step s = .next t → t.MemoryOk

/-- Every step keeps the cursor within the padding (40_bitreader.md R141, 10_state.md R34). -/
def Obligations.StepKeepsCursor : Prop := ∀ s t : State, s.CursorOk → step s = .next t → t.CursorOk

/-- Every step leaves the predefined tables and the run-value maps as the parameters give them (10_state.md R42, R43;
44_coeff_dequant.md R291). -/
def Obligations.StepKeepsTables : Prop := ∀ s t : State, s.TablesOk → step s = .next t → t.TablesOk

/-- Every step keeps the three buffers of INDEO4 distinct (45_frame_engine.md R363, derived there from the default rotation
R360; that another `P_ROTATE4` keeps them distinct too is the model's choice after 20_memory.md R93, `Rotation.apart`,
log 6), the sequencer idle between commands (10_state.md R33), and the parameters (70_reset_and_hazards.md R440). -/
def Obligations.StepKeepsRegisters : Prop :=
  ∀ s t : State, step s = .next t →
    (s.RotationOk → t.RotationOk) ∧ (s.IdleOk → t.IdleOk) ∧ t.params = s.params

/-- Every step keeps the geometry of the bands (45_frame_engine.md R314). -/
def Obligations.StepKeepsGeometry : Prop := ∀ s t : State, s.GeometryOk → step s = .next t → t.GeometryOk
end

