-- ==== Sys2Proof/Laws/State.lean ====
section
/-! SUPPORT. What each update of the state leaves in each field: true by unfolding, so that no later proof unfolds one
of the updates. -/

namespace Sys2Proof.Machine

section complete

variable (s : State)

@[simp] theorem State.complete_res : s.complete.res = s.res := rfl
@[simp] theorem State.complete_err : s.complete.err = .none := rfl
@[simp] theorem State.complete_frameAborted : s.complete.frameAborted = s.frameAborted := rfl
@[simp] theorem State.complete_outValid : s.complete.outValid = s.outValid := rfl
@[simp] theorem State.complete_fstep : s.complete.fstep = s.fstep := rfl
@[simp] theorem State.complete_br : s.complete.br = s.br := rfl
@[simp] theorem State.complete_frameType : s.complete.frameType = s.frameType := rfl
@[simp] theorem State.complete_prevFrameType : s.complete.prevFrameType = s.prevFrameType := rfl
@[simp] theorem State.complete_rot : s.complete.rot = s.rot := rfl
@[simp] theorem State.complete_bufInvalid : s.complete.bufInvalid = s.bufInvalid := rfl
@[simp] theorem State.complete_picConf : s.complete.picConf = s.picConf := rfl
@[simp] theorem State.complete_hdr : s.complete.hdr = s.hdr := rfl
@[simp] theorem State.complete_alloc : s.complete.alloc = s.alloc := rfl
@[simp] theorem State.complete_mbVlc : s.complete.mbVlc = s.mbVlc := rfl
@[simp] theorem State.complete_blkVlc : s.complete.blkVlc = s.blkVlc := rfl
@[simp] theorem State.complete_slot48 : s.complete.slot48 = s.slot48 := rfl
@[simp] theorem State.complete_predefMb : s.complete.predefMb = s.predefMb := rfl
@[simp] theorem State.complete_predefBlk : s.complete.predefBlk = s.predefBlk := rfl
@[simp] theorem State.complete_rvmaps : s.complete.rvmaps = s.rvmaps := rfl
@[simp] theorem State.complete_planes : s.complete.planes = s.planes := rfl
@[simp] theorem State.complete_scratch : s.complete.scratch = s.scratch := rfl
@[simp] theorem State.complete_mem : s.complete.mem = s.mem := rfl
@[simp] theorem State.complete_params : s.complete.params = s.params := rfl
@[simp] theorem State.complete_outPitch : s.complete.outPitch = s.outPitch := rfl
@[simp] theorem State.complete_port : s.complete.port = s.port := rfl
@[simp] theorem State.complete_opr : s.complete.opr = s.opr := rfl
@[simp] theorem State.complete_draws : s.complete.draws = s.draws := rfl
@[simp] theorem State.complete_bound : s.complete.bound = s.bound := rfl
@[simp] theorem State.complete_avail (x : Nat) : s.complete.avail x = s.avail x := rfl
@[simp] theorem State.complete_bandOpt (x y : Nat) : s.complete.band? x y = s.band? x y := rfl
@[simp] theorem State.complete_tileOpt (x y z : Nat) : s.complete.tile? x y z = s.tile? x y z := rfl
@[simp] theorem State.complete_mbOpt (x y z w : Nat) : s.complete.mb? x y z w = s.mb? x y z w := rfl
@[simp] theorem State.complete_bufferOpt (x y z : Nat) : s.complete.buffer? x y z = s.buffer? x y z := rfl
@[simp] theorem State.complete_hasBuffer (x y z : Nat) : s.complete.hasBuffer x y z = s.hasBuffer x y z := rfl
@[simp] theorem State.complete_sample (x y z w : Nat) : s.complete.sample x y z w = s.sample x y z w := rfl
@[simp] theorem State.complete_outByte (x : Fin 3) (y : Nat) : s.complete.outByte x y = s.outByte x y := rfl
@[simp] theorem State.complete_bsBit (x : Nat) : s.complete.bsBit x = s.bsBit x := rfl

end complete

section refuse

variable (s : State) (e : ErrKind)

@[simp] theorem State.refuse_res : (s.refuse e).res = s.res := rfl
@[simp] theorem State.refuse_err : (s.refuse e).err = e := rfl
@[simp] theorem State.refuse_frameAborted : (s.refuse e).frameAborted = s.frameAborted := rfl
@[simp] theorem State.refuse_outValid : (s.refuse e).outValid = s.outValid := rfl
@[simp] theorem State.refuse_fstep : (s.refuse e).fstep = s.fstep := rfl
@[simp] theorem State.refuse_br : (s.refuse e).br = s.br := rfl
@[simp] theorem State.refuse_frameType : (s.refuse e).frameType = s.frameType := rfl
@[simp] theorem State.refuse_prevFrameType : (s.refuse e).prevFrameType = s.prevFrameType := rfl
@[simp] theorem State.refuse_rot : (s.refuse e).rot = s.rot := rfl
@[simp] theorem State.refuse_bufInvalid : (s.refuse e).bufInvalid = s.bufInvalid := rfl
@[simp] theorem State.refuse_picConf : (s.refuse e).picConf = s.picConf := rfl
@[simp] theorem State.refuse_hdr : (s.refuse e).hdr = s.hdr := rfl
@[simp] theorem State.refuse_alloc : (s.refuse e).alloc = s.alloc := rfl
@[simp] theorem State.refuse_mbVlc : (s.refuse e).mbVlc = s.mbVlc := rfl
@[simp] theorem State.refuse_blkVlc : (s.refuse e).blkVlc = s.blkVlc := rfl
@[simp] theorem State.refuse_slot48 : (s.refuse e).slot48 = s.slot48 := rfl
@[simp] theorem State.refuse_predefMb : (s.refuse e).predefMb = s.predefMb := rfl
@[simp] theorem State.refuse_predefBlk : (s.refuse e).predefBlk = s.predefBlk := rfl
@[simp] theorem State.refuse_rvmaps : (s.refuse e).rvmaps = s.rvmaps := rfl
@[simp] theorem State.refuse_planes : (s.refuse e).planes = s.planes := rfl
@[simp] theorem State.refuse_scratch : (s.refuse e).scratch = s.scratch := rfl
@[simp] theorem State.refuse_mem : (s.refuse e).mem = s.mem := rfl
@[simp] theorem State.refuse_params : (s.refuse e).params = s.params := rfl
@[simp] theorem State.refuse_outPitch : (s.refuse e).outPitch = s.outPitch := rfl
@[simp] theorem State.refuse_port : (s.refuse e).port = s.port := rfl
@[simp] theorem State.refuse_opr : (s.refuse e).opr = s.opr := rfl
@[simp] theorem State.refuse_draws : (s.refuse e).draws = s.draws := rfl
@[simp] theorem State.refuse_bound : (s.refuse e).bound = s.bound := rfl
@[simp] theorem State.refuse_avail (x : Nat) : (s.refuse e).avail x = s.avail x := rfl
@[simp] theorem State.refuse_bandOpt (x y : Nat) : (s.refuse e).band? x y = s.band? x y := rfl
@[simp] theorem State.refuse_tileOpt (x y z : Nat) : (s.refuse e).tile? x y z = s.tile? x y z := rfl
@[simp] theorem State.refuse_mbOpt (x y z w : Nat) : (s.refuse e).mb? x y z w = s.mb? x y z w := rfl
@[simp] theorem State.refuse_bufferOpt (x y z : Nat) : (s.refuse e).buffer? x y z = s.buffer? x y z := rfl
@[simp] theorem State.refuse_hasBuffer (x y z : Nat) : (s.refuse e).hasBuffer x y z = s.hasBuffer x y z := rfl
@[simp] theorem State.refuse_sample (x y z w : Nat) : (s.refuse e).sample x y z w = s.sample x y z w := rfl
@[simp] theorem State.refuse_outByte (x : Fin 3) (y : Nat) : (s.refuse e).outByte x y = s.outByte x y := rfl
@[simp] theorem State.refuse_bsBit (x : Nat) : (s.refuse e).bsBit x = s.bsBit x := rfl

end refuse

section raised

variable (s : State) (e : ErrKind)

@[simp] theorem State.raised_res : (s.raised e).res = Config.freeRes s.draws := rfl
@[simp] theorem State.raised_err : (s.raised e).err = e := rfl
@[simp] theorem State.raised_frameAborted : (s.raised e).frameAborted = s.frameAborted := rfl
@[simp] theorem State.raised_outValid : (s.raised e).outValid = s.outValid := rfl
@[simp] theorem State.raised_fstep : (s.raised e).fstep = s.fstep := rfl
@[simp] theorem State.raised_br : (s.raised e).br = s.br := rfl
@[simp] theorem State.raised_frameType : (s.raised e).frameType = s.frameType := rfl
@[simp] theorem State.raised_prevFrameType : (s.raised e).prevFrameType = s.prevFrameType := rfl
@[simp] theorem State.raised_rot : (s.raised e).rot = s.rot := rfl
@[simp] theorem State.raised_bufInvalid : (s.raised e).bufInvalid = s.bufInvalid := rfl
@[simp] theorem State.raised_picConf : (s.raised e).picConf = s.picConf := rfl
@[simp] theorem State.raised_hdr : (s.raised e).hdr = s.hdr := rfl
@[simp] theorem State.raised_alloc : (s.raised e).alloc = s.alloc := rfl
@[simp] theorem State.raised_mbVlc : (s.raised e).mbVlc = s.mbVlc := rfl
@[simp] theorem State.raised_blkVlc : (s.raised e).blkVlc = s.blkVlc := rfl
@[simp] theorem State.raised_slot48 : (s.raised e).slot48 = s.slot48 := rfl
@[simp] theorem State.raised_predefMb : (s.raised e).predefMb = s.predefMb := rfl
@[simp] theorem State.raised_predefBlk : (s.raised e).predefBlk = s.predefBlk := rfl
@[simp] theorem State.raised_rvmaps : (s.raised e).rvmaps = s.rvmaps := rfl
@[simp] theorem State.raised_planes : (s.raised e).planes = s.planes := rfl
@[simp] theorem State.raised_scratch : (s.raised e).scratch = s.scratch := rfl
@[simp] theorem State.raised_mem : (s.raised e).mem = s.mem := rfl
@[simp] theorem State.raised_params : (s.raised e).params = s.params := rfl
@[simp] theorem State.raised_outPitch : (s.raised e).outPitch = s.outPitch := rfl
@[simp] theorem State.raised_port : (s.raised e).port = s.port := rfl
@[simp] theorem State.raised_opr : (s.raised e).opr = s.opr := rfl
@[simp] theorem State.raised_draws : (s.raised e).draws = s.draws + 1 := rfl
@[simp] theorem State.raised_bound : (s.raised e).bound = s.bound := rfl
@[simp] theorem State.raised_avail (x : Nat) : (s.raised e).avail x = s.avail x := rfl
@[simp] theorem State.raised_bandOpt (x y : Nat) : (s.raised e).band? x y = s.band? x y := rfl
@[simp] theorem State.raised_tileOpt (x y z : Nat) : (s.raised e).tile? x y z = s.tile? x y z := rfl
@[simp] theorem State.raised_mbOpt (x y z w : Nat) : (s.raised e).mb? x y z w = s.mb? x y z w := rfl
@[simp] theorem State.raised_bufferOpt (x y z : Nat) : (s.raised e).buffer? x y z = s.buffer? x y z := rfl
@[simp] theorem State.raised_hasBuffer (x y z : Nat) : (s.raised e).hasBuffer x y z = s.hasBuffer x y z := rfl
@[simp] theorem State.raised_sample (x y z w : Nat) : (s.raised e).sample x y z w = s.sample x y z w := rfl
@[simp] theorem State.raised_outByte (x : Fin 3) (y : Nat) : (s.raised e).outByte x y = s.outByte x y := rfl
@[simp] theorem State.raised_bsBit (x : Nat) : (s.raised e).bsBit x = s.bsBit x := rfl

end raised

section illegalWord

variable (s : State)

@[simp] theorem State.illegalWord_res : s.illegalWord.res = s.res := rfl
@[simp] theorem State.illegalWord_err : s.illegalWord.err = .illegalCommand := rfl
@[simp] theorem State.illegalWord_frameAborted : s.illegalWord.frameAborted = s.frameAborted := rfl
@[simp] theorem State.illegalWord_outValid : s.illegalWord.outValid = s.outValid := rfl
@[simp] theorem State.illegalWord_fstep : s.illegalWord.fstep = s.fstep := rfl
@[simp] theorem State.illegalWord_br : s.illegalWord.br = s.br := rfl
@[simp] theorem State.illegalWord_frameType : s.illegalWord.frameType = s.frameType := rfl
@[simp] theorem State.illegalWord_prevFrameType : s.illegalWord.prevFrameType = s.prevFrameType := rfl
@[simp] theorem State.illegalWord_rot : s.illegalWord.rot = s.rot := rfl
@[simp] theorem State.illegalWord_bufInvalid : s.illegalWord.bufInvalid = s.bufInvalid := rfl
@[simp] theorem State.illegalWord_picConf : s.illegalWord.picConf = s.picConf := rfl
@[simp] theorem State.illegalWord_hdr : s.illegalWord.hdr = s.hdr := rfl
@[simp] theorem State.illegalWord_alloc : s.illegalWord.alloc = s.alloc := rfl
@[simp] theorem State.illegalWord_mbVlc : s.illegalWord.mbVlc = s.mbVlc := rfl
@[simp] theorem State.illegalWord_blkVlc : s.illegalWord.blkVlc = s.blkVlc := rfl
@[simp] theorem State.illegalWord_slot48 : s.illegalWord.slot48 = s.slot48 := rfl
@[simp] theorem State.illegalWord_predefMb : s.illegalWord.predefMb = s.predefMb := rfl
@[simp] theorem State.illegalWord_predefBlk : s.illegalWord.predefBlk = s.predefBlk := rfl
@[simp] theorem State.illegalWord_rvmaps : s.illegalWord.rvmaps = s.rvmaps := rfl
@[simp] theorem State.illegalWord_planes : s.illegalWord.planes = s.planes := rfl
@[simp] theorem State.illegalWord_scratch : s.illegalWord.scratch = s.scratch := rfl
@[simp] theorem State.illegalWord_mem : s.illegalWord.mem = s.mem := rfl
@[simp] theorem State.illegalWord_params : s.illegalWord.params = s.params := rfl
@[simp] theorem State.illegalWord_outPitch : s.illegalWord.outPitch = s.outPitch := rfl
@[simp] theorem State.illegalWord_port : s.illegalWord.port = s.port := rfl
@[simp] theorem State.illegalWord_opr : s.illegalWord.opr = s.opr := rfl
@[simp] theorem State.illegalWord_draws : s.illegalWord.draws = s.draws := rfl
@[simp] theorem State.illegalWord_bound : s.illegalWord.bound = s.bound := rfl
@[simp] theorem State.illegalWord_avail (x : Nat) : s.illegalWord.avail x = s.avail x := rfl
@[simp] theorem State.illegalWord_bandOpt (x y : Nat) : s.illegalWord.band? x y = s.band? x y := rfl
@[simp] theorem State.illegalWord_tileOpt (x y z : Nat) : s.illegalWord.tile? x y z = s.tile? x y z := rfl
@[simp] theorem State.illegalWord_mbOpt (x y z w : Nat) : s.illegalWord.mb? x y z w = s.mb? x y z w := rfl
@[simp] theorem State.illegalWord_bufferOpt (x y z : Nat) : s.illegalWord.buffer? x y z = s.buffer? x y z := rfl
@[simp] theorem State.illegalWord_hasBuffer (x y z : Nat) : s.illegalWord.hasBuffer x y z = s.hasBuffer x y z := rfl
@[simp] theorem State.illegalWord_sample (x y z w : Nat) : s.illegalWord.sample x y z w = s.sample x y z w := rfl
@[simp] theorem State.illegalWord_outByte (x : Fin 3) (y : Nat) : s.illegalWord.outByte x y = s.outByte x y := rfl
@[simp] theorem State.illegalWord_bsBit (x : Nat) : s.illegalWord.bsBit x = s.bsBit x := rfl

end illegalWord

section releaseScratch

variable (s : State)

@[simp] theorem State.releaseScratch_res : s.releaseScratch.res = s.res := by simp only [State.releaseScratch]
@[simp] theorem State.releaseScratch_err : s.releaseScratch.err = s.err := by simp only [State.releaseScratch]
@[simp] theorem State.releaseScratch_frameAborted : s.releaseScratch.frameAborted = s.frameAborted := by simp only [State.releaseScratch]
@[simp] theorem State.releaseScratch_outValid : s.releaseScratch.outValid = s.outValid := by simp only [State.releaseScratch]
@[simp] theorem State.releaseScratch_fstep : s.releaseScratch.fstep = s.fstep := by simp only [State.releaseScratch]
@[simp] theorem State.releaseScratch_br : s.releaseScratch.br = s.br := by simp only [State.releaseScratch]
@[simp] theorem State.releaseScratch_frameType : s.releaseScratch.frameType = s.frameType := by simp only [State.releaseScratch]
@[simp] theorem State.releaseScratch_prevFrameType : s.releaseScratch.prevFrameType = s.prevFrameType := by simp only [State.releaseScratch]
@[simp] theorem State.releaseScratch_rot : s.releaseScratch.rot = s.rot := by simp only [State.releaseScratch]
@[simp] theorem State.releaseScratch_bufInvalid : s.releaseScratch.bufInvalid = s.bufInvalid := by simp only [State.releaseScratch]
@[simp] theorem State.releaseScratch_picConf : s.releaseScratch.picConf = s.picConf := by simp only [State.releaseScratch]
@[simp] theorem State.releaseScratch_hdr : s.releaseScratch.hdr = s.hdr := by simp only [State.releaseScratch]
@[simp] theorem State.releaseScratch_alloc : s.releaseScratch.alloc = s.alloc := by simp only [State.releaseScratch]
@[simp] theorem State.releaseScratch_mbVlc : s.releaseScratch.mbVlc = s.mbVlc := by simp only [State.releaseScratch]
@[simp] theorem State.releaseScratch_blkVlc : s.releaseScratch.blkVlc = s.blkVlc := by simp only [State.releaseScratch]
@[simp] theorem State.releaseScratch_slot48 : s.releaseScratch.slot48 = s.slot48 := by simp only [State.releaseScratch]
@[simp] theorem State.releaseScratch_predefMb : s.releaseScratch.predefMb = s.predefMb := by simp only [State.releaseScratch]
@[simp] theorem State.releaseScratch_predefBlk : s.releaseScratch.predefBlk = s.predefBlk := by simp only [State.releaseScratch]
@[simp] theorem State.releaseScratch_rvmaps : s.releaseScratch.rvmaps = s.rvmaps := by simp only [State.releaseScratch]
@[simp] theorem State.releaseScratch_planes : s.releaseScratch.planes = s.planes := by simp only [State.releaseScratch]
@[simp] theorem State.releaseScratch_scratch : s.releaseScratch.scratch = Scratch.free s.draws := by simp only [State.releaseScratch]
@[simp] theorem State.releaseScratch_mem : s.releaseScratch.mem = s.mem := by simp only [State.releaseScratch]
@[simp] theorem State.releaseScratch_params : s.releaseScratch.params = s.params := by simp only [State.releaseScratch]
@[simp] theorem State.releaseScratch_outPitch : s.releaseScratch.outPitch = s.outPitch := by simp only [State.releaseScratch]
@[simp] theorem State.releaseScratch_port : s.releaseScratch.port = s.port := by simp only [State.releaseScratch]
@[simp] theorem State.releaseScratch_opr : s.releaseScratch.opr = s.opr := by simp only [State.releaseScratch]
@[simp] theorem State.releaseScratch_draws : s.releaseScratch.draws = s.draws + 1 := by simp only [State.releaseScratch]
@[simp] theorem State.releaseScratch_bound : s.releaseScratch.bound = s.bound := by
  simp only [State.bound, State.releaseScratch_br]
@[simp] theorem State.releaseScratch_avail (x : Nat) : s.releaseScratch.avail x = s.avail x := by
  simp only [State.avail, State.releaseScratch_br, State.releaseScratch_params]
@[simp] theorem State.releaseScratch_bandOpt (x y : Nat) : s.releaseScratch.band? x y = s.band? x y := by
  simp only [State.band?, State.plane?, State.releaseScratch_planes]
@[simp] theorem State.releaseScratch_tileOpt (x y z : Nat) : s.releaseScratch.tile? x y z = s.tile? x y z := by
  simp only [State.tile?, State.band?, State.plane?, State.releaseScratch_planes]
@[simp] theorem State.releaseScratch_mbOpt (x y z w : Nat) : s.releaseScratch.mb? x y z w = s.mb? x y z w := by
  simp only [State.mb?, State.tile?, State.band?, State.plane?, State.releaseScratch_planes]
@[simp] theorem State.releaseScratch_bufferOpt (x y z : Nat) : s.releaseScratch.buffer? x y z = s.buffer? x y z := by
  simp only [State.buffer?, State.releaseScratch_mem]
@[simp] theorem State.releaseScratch_hasBuffer (x y z : Nat) : s.releaseScratch.hasBuffer x y z = s.hasBuffer x y z := by
  simp only [State.hasBuffer, State.buffer?, State.releaseScratch_mem]
@[simp] theorem State.releaseScratch_sample (x y z w : Nat) : s.releaseScratch.sample x y z w = s.sample x y z w := by
  simp only [State.sample, State.bufferOf, State.buffer?, State.releaseScratch_mem]
@[simp] theorem State.releaseScratch_outByte (x : Fin 3) (y : Nat) : s.releaseScratch.outByte x y = s.outByte x y := by
  simp only [State.outByte, State.outPlane, State.releaseScratch_mem]
@[simp] theorem State.releaseScratch_bsBit (x : Nat) : s.releaseScratch.bsBit x = s.bsBit x := by
  simp only [State.bsBit, State.releaseScratch_br, State.releaseScratch_params]

end releaseScratch

section looked

variable (s : State) (n : Nat)

@[simp] theorem State.looked_res : (s.looked n).res = s.res := rfl
@[simp] theorem State.looked_err : (s.looked n).err = s.err := rfl
@[simp] theorem State.looked_frameAborted : (s.looked n).frameAborted = s.frameAborted := rfl
@[simp] theorem State.looked_outValid : (s.looked n).outValid = s.outValid := rfl
@[simp] theorem State.looked_fstep : (s.looked n).fstep = s.fstep := rfl
@[simp] theorem State.looked_br : (s.looked n).br = s.br := rfl
@[simp] theorem State.looked_frameType : (s.looked n).frameType = s.frameType := rfl
@[simp] theorem State.looked_prevFrameType : (s.looked n).prevFrameType = s.prevFrameType := rfl
@[simp] theorem State.looked_rot : (s.looked n).rot = s.rot := rfl
@[simp] theorem State.looked_bufInvalid : (s.looked n).bufInvalid = s.bufInvalid := rfl
@[simp] theorem State.looked_picConf : (s.looked n).picConf = s.picConf := rfl
@[simp] theorem State.looked_hdr : (s.looked n).hdr = s.hdr := rfl
@[simp] theorem State.looked_alloc : (s.looked n).alloc = s.alloc := rfl
@[simp] theorem State.looked_mbVlc : (s.looked n).mbVlc = s.mbVlc := rfl
@[simp] theorem State.looked_blkVlc : (s.looked n).blkVlc = s.blkVlc := rfl
@[simp] theorem State.looked_slot48 : (s.looked n).slot48 = s.slot48 := rfl
@[simp] theorem State.looked_predefMb : (s.looked n).predefMb = s.predefMb := rfl
@[simp] theorem State.looked_predefBlk : (s.looked n).predefBlk = s.predefBlk := rfl
@[simp] theorem State.looked_rvmaps : (s.looked n).rvmaps = s.rvmaps := rfl
@[simp] theorem State.looked_planes : (s.looked n).planes = s.planes := rfl
@[simp] theorem State.looked_scratch : (s.looked n).scratch = s.scratch := rfl
@[simp] theorem State.looked_mem : (s.looked n).mem = s.mem := rfl
@[simp] theorem State.looked_params : (s.looked n).params = s.params := rfl
@[simp] theorem State.looked_outPitch : (s.looked n).outPitch = s.outPitch := rfl
@[simp] theorem State.looked_port : (s.looked n).port = s.port := rfl
@[simp] theorem State.looked_opr : (s.looked n).opr = s.opr := rfl
@[simp] theorem State.looked_draws : (s.looked n).draws = s.draws + s.drawsAhead n := rfl
@[simp] theorem State.looked_bound : (s.looked n).bound = s.bound := rfl
@[simp] theorem State.looked_avail (x : Nat) : (s.looked n).avail x = s.avail x := rfl
@[simp] theorem State.looked_bandOpt (x y : Nat) : (s.looked n).band? x y = s.band? x y := rfl
@[simp] theorem State.looked_tileOpt (x y z : Nat) : (s.looked n).tile? x y z = s.tile? x y z := rfl
@[simp] theorem State.looked_mbOpt (x y z w : Nat) : (s.looked n).mb? x y z w = s.mb? x y z w := rfl
@[simp] theorem State.looked_bufferOpt (x y z : Nat) : (s.looked n).buffer? x y z = s.buffer? x y z := rfl
@[simp] theorem State.looked_hasBuffer (x y z : Nat) : (s.looked n).hasBuffer x y z = s.hasBuffer x y z := rfl
@[simp] theorem State.looked_sample (x y z w : Nat) : (s.looked n).sample x y z w = s.sample x y z w := rfl
@[simp] theorem State.looked_outByte (x : Fin 3) (y : Nat) : (s.looked n).outByte x y = s.outByte x y := rfl
@[simp] theorem State.looked_bsBit (x : Nat) : (s.looked n).bsBit x = s.bsBit x := rfl

end looked

section moved

variable (s : State) (n : Nat)

@[simp] theorem State.moved_res : (s.moved n).res = s.res := rfl
@[simp] theorem State.moved_err : (s.moved n).err = s.err := rfl
@[simp] theorem State.moved_frameAborted : (s.moved n).frameAborted = s.frameAborted := rfl
@[simp] theorem State.moved_outValid : (s.moved n).outValid = s.outValid := rfl
@[simp] theorem State.moved_fstep : (s.moved n).fstep = s.fstep := rfl
@[simp] theorem State.moved_br : (s.moved n).br = { s.br with index := s.br.index + n } := rfl
@[simp] theorem State.moved_frameType : (s.moved n).frameType = s.frameType := rfl
@[simp] theorem State.moved_prevFrameType : (s.moved n).prevFrameType = s.prevFrameType := rfl
@[simp] theorem State.moved_rot : (s.moved n).rot = s.rot := rfl
@[simp] theorem State.moved_bufInvalid : (s.moved n).bufInvalid = s.bufInvalid := rfl
@[simp] theorem State.moved_picConf : (s.moved n).picConf = s.picConf := rfl
@[simp] theorem State.moved_hdr : (s.moved n).hdr = s.hdr := rfl
@[simp] theorem State.moved_alloc : (s.moved n).alloc = s.alloc := rfl
@[simp] theorem State.moved_mbVlc : (s.moved n).mbVlc = s.mbVlc := rfl
@[simp] theorem State.moved_blkVlc : (s.moved n).blkVlc = s.blkVlc := rfl
@[simp] theorem State.moved_slot48 : (s.moved n).slot48 = s.slot48 := rfl
@[simp] theorem State.moved_predefMb : (s.moved n).predefMb = s.predefMb := rfl
@[simp] theorem State.moved_predefBlk : (s.moved n).predefBlk = s.predefBlk := rfl
@[simp] theorem State.moved_rvmaps : (s.moved n).rvmaps = s.rvmaps := rfl
@[simp] theorem State.moved_planes : (s.moved n).planes = s.planes := rfl
@[simp] theorem State.moved_scratch : (s.moved n).scratch = s.scratch := rfl
@[simp] theorem State.moved_mem : (s.moved n).mem = s.mem := rfl
@[simp] theorem State.moved_params : (s.moved n).params = s.params := rfl
@[simp] theorem State.moved_outPitch : (s.moved n).outPitch = s.outPitch := rfl
@[simp] theorem State.moved_port : (s.moved n).port = s.port := rfl
@[simp] theorem State.moved_opr : (s.moved n).opr = s.opr := rfl
@[simp] theorem State.moved_draws : (s.moved n).draws = s.draws := rfl
@[simp] theorem State.moved_bandOpt (x y : Nat) : (s.moved n).band? x y = s.band? x y := rfl
@[simp] theorem State.moved_tileOpt (x y z : Nat) : (s.moved n).tile? x y z = s.tile? x y z := rfl
@[simp] theorem State.moved_mbOpt (x y z w : Nat) : (s.moved n).mb? x y z w = s.mb? x y z w := rfl
@[simp] theorem State.moved_bufferOpt (x y z : Nat) : (s.moved n).buffer? x y z = s.buffer? x y z := rfl
@[simp] theorem State.moved_hasBuffer (x y z : Nat) : (s.moved n).hasBuffer x y z = s.hasBuffer x y z := rfl
@[simp] theorem State.moved_sample (x y z w : Nat) : (s.moved n).sample x y z w = s.sample x y z w := rfl
@[simp] theorem State.moved_outByte (x : Fin 3) (y : Nat) : (s.moved n).outByte x y = s.outByte x y := rfl

end moved

section bind

variable (s : State) (c : List Byte) (l : Nat)

@[simp] theorem State.bind_res : (s.bind c l).res = s.res := rfl
@[simp] theorem State.bind_err : (s.bind c l).err = s.err := rfl
@[simp] theorem State.bind_frameAborted : (s.bind c l).frameAborted = s.frameAborted := rfl
@[simp] theorem State.bind_outValid : (s.bind c l).outValid = s.outValid := rfl
@[simp] theorem State.bind_fstep : (s.bind c l).fstep = s.fstep := rfl
@[simp] theorem State.bind_br : (s.bind c l).br = ⟨some c, 8 * l, 0⟩ := rfl
@[simp] theorem State.bind_frameType : (s.bind c l).frameType = s.frameType := rfl
@[simp] theorem State.bind_prevFrameType : (s.bind c l).prevFrameType = s.prevFrameType := rfl
@[simp] theorem State.bind_rot : (s.bind c l).rot = s.rot := rfl
@[simp] theorem State.bind_bufInvalid : (s.bind c l).bufInvalid = s.bufInvalid := rfl
@[simp] theorem State.bind_picConf : (s.bind c l).picConf = s.picConf := rfl
@[simp] theorem State.bind_hdr : (s.bind c l).hdr = s.hdr := rfl
@[simp] theorem State.bind_alloc : (s.bind c l).alloc = s.alloc := rfl
@[simp] theorem State.bind_mbVlc : (s.bind c l).mbVlc = s.mbVlc := rfl
@[simp] theorem State.bind_blkVlc : (s.bind c l).blkVlc = s.blkVlc := rfl
@[simp] theorem State.bind_slot48 : (s.bind c l).slot48 = s.slot48 := rfl
@[simp] theorem State.bind_predefMb : (s.bind c l).predefMb = s.predefMb := rfl
@[simp] theorem State.bind_predefBlk : (s.bind c l).predefBlk = s.predefBlk := rfl
@[simp] theorem State.bind_rvmaps : (s.bind c l).rvmaps = s.rvmaps := rfl
@[simp] theorem State.bind_planes : (s.bind c l).planes = s.planes := rfl
@[simp] theorem State.bind_scratch : (s.bind c l).scratch = s.scratch := rfl
@[simp] theorem State.bind_mem : (s.bind c l).mem = s.mem := rfl
@[simp] theorem State.bind_params : (s.bind c l).params = s.params := rfl
@[simp] theorem State.bind_outPitch : (s.bind c l).outPitch = s.outPitch := rfl
@[simp] theorem State.bind_port : (s.bind c l).port = s.port := rfl
@[simp] theorem State.bind_opr : (s.bind c l).opr = s.opr := rfl
@[simp] theorem State.bind_draws : (s.bind c l).draws = s.draws := rfl
@[simp] theorem State.bind_bandOpt (x y : Nat) : (s.bind c l).band? x y = s.band? x y := rfl
@[simp] theorem State.bind_tileOpt (x y z : Nat) : (s.bind c l).tile? x y z = s.tile? x y z := rfl
@[simp] theorem State.bind_mbOpt (x y z w : Nat) : (s.bind c l).mb? x y z w = s.mb? x y z w := rfl
@[simp] theorem State.bind_bufferOpt (x y z : Nat) : (s.bind c l).buffer? x y z = s.buffer? x y z := rfl
@[simp] theorem State.bind_hasBuffer (x y z : Nat) : (s.bind c l).hasBuffer x y z = s.hasBuffer x y z := rfl
@[simp] theorem State.bind_sample (x y z w : Nat) : (s.bind c l).sample x y z w = s.sample x y z w := rfl
@[simp] theorem State.bind_outByte (x : Fin 3) (y : Nat) : (s.bind c l).outByte x y = s.outByte x y := rfl

end bind

section setOut

variable (s : State) (t : Fin 3) (cs : List Host.Cell)

@[simp] theorem State.setOut_res : (s.setOut t cs).res = s.res := rfl
@[simp] theorem State.setOut_err : (s.setOut t cs).err = s.err := rfl
@[simp] theorem State.setOut_frameAborted : (s.setOut t cs).frameAborted = s.frameAborted := rfl
@[simp] theorem State.setOut_outValid : (s.setOut t cs).outValid = s.outValid := rfl
@[simp] theorem State.setOut_fstep : (s.setOut t cs).fstep = s.fstep := rfl
@[simp] theorem State.setOut_br : (s.setOut t cs).br = s.br := rfl
@[simp] theorem State.setOut_frameType : (s.setOut t cs).frameType = s.frameType := rfl
@[simp] theorem State.setOut_prevFrameType : (s.setOut t cs).prevFrameType = s.prevFrameType := rfl
@[simp] theorem State.setOut_rot : (s.setOut t cs).rot = s.rot := rfl
@[simp] theorem State.setOut_bufInvalid : (s.setOut t cs).bufInvalid = s.bufInvalid := rfl
@[simp] theorem State.setOut_picConf : (s.setOut t cs).picConf = s.picConf := rfl
@[simp] theorem State.setOut_hdr : (s.setOut t cs).hdr = s.hdr := rfl
@[simp] theorem State.setOut_alloc : (s.setOut t cs).alloc = s.alloc := rfl
@[simp] theorem State.setOut_mbVlc : (s.setOut t cs).mbVlc = s.mbVlc := rfl
@[simp] theorem State.setOut_blkVlc : (s.setOut t cs).blkVlc = s.blkVlc := rfl
@[simp] theorem State.setOut_slot48 : (s.setOut t cs).slot48 = s.slot48 := rfl
@[simp] theorem State.setOut_predefMb : (s.setOut t cs).predefMb = s.predefMb := rfl
@[simp] theorem State.setOut_predefBlk : (s.setOut t cs).predefBlk = s.predefBlk := rfl
@[simp] theorem State.setOut_rvmaps : (s.setOut t cs).rvmaps = s.rvmaps := rfl
@[simp] theorem State.setOut_planes : (s.setOut t cs).planes = s.planes := rfl
@[simp] theorem State.setOut_scratch : (s.setOut t cs).scratch = s.scratch := rfl
@[simp] theorem State.setOut_mem : (s.setOut t cs).mem = { s.mem with out := s.mem.out.set t cs } := rfl
@[simp] theorem State.setOut_params : (s.setOut t cs).params = s.params := rfl
@[simp] theorem State.setOut_outPitch : (s.setOut t cs).outPitch = s.outPitch := rfl
@[simp] theorem State.setOut_port : (s.setOut t cs).port = s.port := rfl
@[simp] theorem State.setOut_opr : (s.setOut t cs).opr = s.opr := rfl
@[simp] theorem State.setOut_draws : (s.setOut t cs).draws = s.draws := rfl
@[simp] theorem State.setOut_bound : (s.setOut t cs).bound = s.bound := rfl
@[simp] theorem State.setOut_avail (x : Nat) : (s.setOut t cs).avail x = s.avail x := rfl
@[simp] theorem State.setOut_bandOpt (x y : Nat) : (s.setOut t cs).band? x y = s.band? x y := rfl
@[simp] theorem State.setOut_tileOpt (x y z : Nat) : (s.setOut t cs).tile? x y z = s.tile? x y z := rfl
@[simp] theorem State.setOut_mbOpt (x y z w : Nat) : (s.setOut t cs).mb? x y z w = s.mb? x y z w := rfl
@[simp] theorem State.setOut_bufferOpt (x y z : Nat) : (s.setOut t cs).buffer? x y z = s.buffer? x y z := rfl
@[simp] theorem State.setOut_hasBuffer (x y z : Nat) : (s.setOut t cs).hasBuffer x y z = s.hasBuffer x y z := rfl
@[simp] theorem State.setOut_sample (x y z w : Nat) : (s.setOut t cs).sample x y z w = s.sample x y z w := rfl
@[simp] theorem State.setOut_bsBit (x : Nat) : (s.setOut t cs).bsBit x = s.bsBit x := rfl

end setOut

section setBuffer

variable (s : State) (p b k : Nat) (buf : Buf)

@[simp] theorem State.setBuffer_res : (s.setBuffer p b k buf).res = s.res := rfl
@[simp] theorem State.setBuffer_err : (s.setBuffer p b k buf).err = s.err := rfl
@[simp] theorem State.setBuffer_frameAborted : (s.setBuffer p b k buf).frameAborted = s.frameAborted := rfl
@[simp] theorem State.setBuffer_outValid : (s.setBuffer p b k buf).outValid = s.outValid := rfl
@[simp] theorem State.setBuffer_fstep : (s.setBuffer p b k buf).fstep = s.fstep := rfl
@[simp] theorem State.setBuffer_br : (s.setBuffer p b k buf).br = s.br := rfl
@[simp] theorem State.setBuffer_frameType : (s.setBuffer p b k buf).frameType = s.frameType := rfl
@[simp] theorem State.setBuffer_prevFrameType : (s.setBuffer p b k buf).prevFrameType = s.prevFrameType := rfl
@[simp] theorem State.setBuffer_rot : (s.setBuffer p b k buf).rot = s.rot := rfl
@[simp] theorem State.setBuffer_bufInvalid : (s.setBuffer p b k buf).bufInvalid = s.bufInvalid := rfl
@[simp] theorem State.setBuffer_picConf : (s.setBuffer p b k buf).picConf = s.picConf := rfl
@[simp] theorem State.setBuffer_hdr : (s.setBuffer p b k buf).hdr = s.hdr := rfl
@[simp] theorem State.setBuffer_alloc : (s.setBuffer p b k buf).alloc = s.alloc := rfl
@[simp] theorem State.setBuffer_mbVlc : (s.setBuffer p b k buf).mbVlc = s.mbVlc := rfl
@[simp] theorem State.setBuffer_blkVlc : (s.setBuffer p b k buf).blkVlc = s.blkVlc := rfl
@[simp] theorem State.setBuffer_slot48 : (s.setBuffer p b k buf).slot48 = s.slot48 := rfl
@[simp] theorem State.setBuffer_predefMb : (s.setBuffer p b k buf).predefMb = s.predefMb := rfl
@[simp] theorem State.setBuffer_predefBlk : (s.setBuffer p b k buf).predefBlk = s.predefBlk := rfl
@[simp] theorem State.setBuffer_rvmaps : (s.setBuffer p b k buf).rvmaps = s.rvmaps := rfl
@[simp] theorem State.setBuffer_planes : (s.setBuffer p b k buf).planes = s.planes := rfl
@[simp] theorem State.setBuffer_scratch : (s.setBuffer p b k buf).scratch = s.scratch := rfl
@[simp] theorem State.setBuffer_params : (s.setBuffer p b k buf).params = s.params := rfl
@[simp] theorem State.setBuffer_outPitch : (s.setBuffer p b k buf).outPitch = s.outPitch := rfl
@[simp] theorem State.setBuffer_port : (s.setBuffer p b k buf).port = s.port := rfl
@[simp] theorem State.setBuffer_opr : (s.setBuffer p b k buf).opr = s.opr := rfl
@[simp] theorem State.setBuffer_draws : (s.setBuffer p b k buf).draws = s.draws := rfl
@[simp] theorem State.setBuffer_bound : (s.setBuffer p b k buf).bound = s.bound := rfl
@[simp] theorem State.setBuffer_avail (x : Nat) : (s.setBuffer p b k buf).avail x = s.avail x := rfl
@[simp] theorem State.setBuffer_bandOpt (x y : Nat) : (s.setBuffer p b k buf).band? x y = s.band? x y := rfl
@[simp] theorem State.setBuffer_tileOpt (x y z : Nat) : (s.setBuffer p b k buf).tile? x y z = s.tile? x y z := rfl
@[simp] theorem State.setBuffer_mbOpt (x y z w : Nat) : (s.setBuffer p b k buf).mb? x y z w = s.mb? x y z w := rfl
@[simp] theorem State.setBuffer_outByte (x : Fin 3) (y : Nat) : (s.setBuffer p b k buf).outByte x y = s.outByte x y := rfl
@[simp] theorem State.setBuffer_bsBit (x : Nat) : (s.setBuffer p b k buf).bsBit x = s.bsBit x := rfl

end setBuffer

section updPlane

variable (s : State) (p : Nat) (f : Plane → Plane)

@[simp] theorem State.updPlane_res : (s.updPlane p f).res = s.res := rfl
@[simp] theorem State.updPlane_err : (s.updPlane p f).err = s.err := rfl
@[simp] theorem State.updPlane_frameAborted : (s.updPlane p f).frameAborted = s.frameAborted := rfl
@[simp] theorem State.updPlane_outValid : (s.updPlane p f).outValid = s.outValid := rfl
@[simp] theorem State.updPlane_fstep : (s.updPlane p f).fstep = s.fstep := rfl
@[simp] theorem State.updPlane_br : (s.updPlane p f).br = s.br := rfl
@[simp] theorem State.updPlane_frameType : (s.updPlane p f).frameType = s.frameType := rfl
@[simp] theorem State.updPlane_prevFrameType : (s.updPlane p f).prevFrameType = s.prevFrameType := rfl
@[simp] theorem State.updPlane_rot : (s.updPlane p f).rot = s.rot := rfl
@[simp] theorem State.updPlane_bufInvalid : (s.updPlane p f).bufInvalid = s.bufInvalid := rfl
@[simp] theorem State.updPlane_picConf : (s.updPlane p f).picConf = s.picConf := rfl
@[simp] theorem State.updPlane_hdr : (s.updPlane p f).hdr = s.hdr := rfl
@[simp] theorem State.updPlane_alloc : (s.updPlane p f).alloc = s.alloc := rfl
@[simp] theorem State.updPlane_mbVlc : (s.updPlane p f).mbVlc = s.mbVlc := rfl
@[simp] theorem State.updPlane_blkVlc : (s.updPlane p f).blkVlc = s.blkVlc := rfl
@[simp] theorem State.updPlane_slot48 : (s.updPlane p f).slot48 = s.slot48 := rfl
@[simp] theorem State.updPlane_predefMb : (s.updPlane p f).predefMb = s.predefMb := rfl
@[simp] theorem State.updPlane_predefBlk : (s.updPlane p f).predefBlk = s.predefBlk := rfl
@[simp] theorem State.updPlane_rvmaps : (s.updPlane p f).rvmaps = s.rvmaps := rfl
@[simp] theorem State.updPlane_planes : (s.updPlane p f).planes = modifyPlane s.planes p f := rfl
@[simp] theorem State.updPlane_scratch : (s.updPlane p f).scratch = s.scratch := rfl
@[simp] theorem State.updPlane_mem : (s.updPlane p f).mem = s.mem := rfl
@[simp] theorem State.updPlane_params : (s.updPlane p f).params = s.params := rfl
@[simp] theorem State.updPlane_outPitch : (s.updPlane p f).outPitch = s.outPitch := rfl
@[simp] theorem State.updPlane_port : (s.updPlane p f).port = s.port := rfl
@[simp] theorem State.updPlane_opr : (s.updPlane p f).opr = s.opr := rfl
@[simp] theorem State.updPlane_draws : (s.updPlane p f).draws = s.draws := rfl
@[simp] theorem State.updPlane_bound : (s.updPlane p f).bound = s.bound := rfl
@[simp] theorem State.updPlane_avail (x : Nat) : (s.updPlane p f).avail x = s.avail x := rfl
@[simp] theorem State.updPlane_bufferOpt (x y z : Nat) : (s.updPlane p f).buffer? x y z = s.buffer? x y z := rfl
@[simp] theorem State.updPlane_hasBuffer (x y z : Nat) : (s.updPlane p f).hasBuffer x y z = s.hasBuffer x y z := rfl
@[simp] theorem State.updPlane_sample (x y z w : Nat) : (s.updPlane p f).sample x y z w = s.sample x y z w := rfl
@[simp] theorem State.updPlane_outByte (x : Fin 3) (y : Nat) : (s.updPlane p f).outByte x y = s.outByte x y := rfl
@[simp] theorem State.updPlane_bsBit (x : Nat) : (s.updPlane p f).bsBit x = s.bsBit x := rfl

end updPlane

section updBand

variable (s : State) (p b : Nat) (f : Band → Band)

@[simp] theorem State.updBand_res : (s.updBand p b f).res = s.res := rfl
@[simp] theorem State.updBand_err : (s.updBand p b f).err = s.err := rfl
@[simp] theorem State.updBand_frameAborted : (s.updBand p b f).frameAborted = s.frameAborted := rfl
@[simp] theorem State.updBand_outValid : (s.updBand p b f).outValid = s.outValid := rfl
@[simp] theorem State.updBand_fstep : (s.updBand p b f).fstep = s.fstep := rfl
@[simp] theorem State.updBand_br : (s.updBand p b f).br = s.br := rfl
@[simp] theorem State.updBand_frameType : (s.updBand p b f).frameType = s.frameType := rfl
@[simp] theorem State.updBand_prevFrameType : (s.updBand p b f).prevFrameType = s.prevFrameType := rfl
@[simp] theorem State.updBand_rot : (s.updBand p b f).rot = s.rot := rfl
@[simp] theorem State.updBand_bufInvalid : (s.updBand p b f).bufInvalid = s.bufInvalid := rfl
@[simp] theorem State.updBand_picConf : (s.updBand p b f).picConf = s.picConf := rfl
@[simp] theorem State.updBand_hdr : (s.updBand p b f).hdr = s.hdr := rfl
@[simp] theorem State.updBand_alloc : (s.updBand p b f).alloc = s.alloc := rfl
@[simp] theorem State.updBand_mbVlc : (s.updBand p b f).mbVlc = s.mbVlc := rfl
@[simp] theorem State.updBand_blkVlc : (s.updBand p b f).blkVlc = s.blkVlc := rfl
@[simp] theorem State.updBand_slot48 : (s.updBand p b f).slot48 = s.slot48 := rfl
@[simp] theorem State.updBand_predefMb : (s.updBand p b f).predefMb = s.predefMb := rfl
@[simp] theorem State.updBand_predefBlk : (s.updBand p b f).predefBlk = s.predefBlk := rfl
@[simp] theorem State.updBand_rvmaps : (s.updBand p b f).rvmaps = s.rvmaps := rfl
@[simp] theorem State.updBand_scratch : (s.updBand p b f).scratch = s.scratch := rfl
@[simp] theorem State.updBand_mem : (s.updBand p b f).mem = s.mem := rfl
@[simp] theorem State.updBand_params : (s.updBand p b f).params = s.params := rfl
@[simp] theorem State.updBand_outPitch : (s.updBand p b f).outPitch = s.outPitch := rfl
@[simp] theorem State.updBand_port : (s.updBand p b f).port = s.port := rfl
@[simp] theorem State.updBand_opr : (s.updBand p b f).opr = s.opr := rfl
@[simp] theorem State.updBand_draws : (s.updBand p b f).draws = s.draws := rfl
@[simp] theorem State.updBand_bound : (s.updBand p b f).bound = s.bound := rfl
@[simp] theorem State.updBand_avail (x : Nat) : (s.updBand p b f).avail x = s.avail x := rfl
@[simp] theorem State.updBand_bufferOpt (x y z : Nat) : (s.updBand p b f).buffer? x y z = s.buffer? x y z := rfl
@[simp] theorem State.updBand_hasBuffer (x y z : Nat) : (s.updBand p b f).hasBuffer x y z = s.hasBuffer x y z := rfl
@[simp] theorem State.updBand_sample (x y z w : Nat) : (s.updBand p b f).sample x y z w = s.sample x y z w := rfl
@[simp] theorem State.updBand_outByte (x : Fin 3) (y : Nat) : (s.updBand p b f).outByte x y = s.outByte x y := rfl
@[simp] theorem State.updBand_bsBit (x : Nat) : (s.updBand p b f).bsBit x = s.bsBit x := rfl

end updBand

section updTile

variable (s : State) (p b t : Nat) (f : Tile → Tile)

@[simp] theorem State.updTile_res : (s.updTile p b t f).res = s.res := rfl
@[simp] theorem State.updTile_err : (s.updTile p b t f).err = s.err := rfl
@[simp] theorem State.updTile_frameAborted : (s.updTile p b t f).frameAborted = s.frameAborted := rfl
@[simp] theorem State.updTile_outValid : (s.updTile p b t f).outValid = s.outValid := rfl
@[simp] theorem State.updTile_fstep : (s.updTile p b t f).fstep = s.fstep := rfl
@[simp] theorem State.updTile_br : (s.updTile p b t f).br = s.br := rfl
@[simp] theorem State.updTile_frameType : (s.updTile p b t f).frameType = s.frameType := rfl
@[simp] theorem State.updTile_prevFrameType : (s.updTile p b t f).prevFrameType = s.prevFrameType := rfl
@[simp] theorem State.updTile_rot : (s.updTile p b t f).rot = s.rot := rfl
@[simp] theorem State.updTile_bufInvalid : (s.updTile p b t f).bufInvalid = s.bufInvalid := rfl
@[simp] theorem State.updTile_picConf : (s.updTile p b t f).picConf = s.picConf := rfl
@[simp] theorem State.updTile_hdr : (s.updTile p b t f).hdr = s.hdr := rfl
@[simp] theorem State.updTile_alloc : (s.updTile p b t f).alloc = s.alloc := rfl
@[simp] theorem State.updTile_mbVlc : (s.updTile p b t f).mbVlc = s.mbVlc := rfl
@[simp] theorem State.updTile_blkVlc : (s.updTile p b t f).blkVlc = s.blkVlc := rfl
@[simp] theorem State.updTile_slot48 : (s.updTile p b t f).slot48 = s.slot48 := rfl
@[simp] theorem State.updTile_predefMb : (s.updTile p b t f).predefMb = s.predefMb := rfl
@[simp] theorem State.updTile_predefBlk : (s.updTile p b t f).predefBlk = s.predefBlk := rfl
@[simp] theorem State.updTile_rvmaps : (s.updTile p b t f).rvmaps = s.rvmaps := rfl
@[simp] theorem State.updTile_scratch : (s.updTile p b t f).scratch = s.scratch := rfl
@[simp] theorem State.updTile_mem : (s.updTile p b t f).mem = s.mem := rfl
@[simp] theorem State.updTile_params : (s.updTile p b t f).params = s.params := rfl
@[simp] theorem State.updTile_outPitch : (s.updTile p b t f).outPitch = s.outPitch := rfl
@[simp] theorem State.updTile_port : (s.updTile p b t f).port = s.port := rfl
@[simp] theorem State.updTile_opr : (s.updTile p b t f).opr = s.opr := rfl
@[simp] theorem State.updTile_draws : (s.updTile p b t f).draws = s.draws := rfl
@[simp] theorem State.updTile_bound : (s.updTile p b t f).bound = s.bound := rfl
@[simp] theorem State.updTile_avail (x : Nat) : (s.updTile p b t f).avail x = s.avail x := rfl
@[simp] theorem State.updTile_bufferOpt (x y z : Nat) : (s.updTile p b t f).buffer? x y z = s.buffer? x y z := rfl
@[simp] theorem State.updTile_hasBuffer (x y z : Nat) : (s.updTile p b t f).hasBuffer x y z = s.hasBuffer x y z := rfl
@[simp] theorem State.updTile_sample (x y z w : Nat) : (s.updTile p b t f).sample x y z w = s.sample x y z w := rfl
@[simp] theorem State.updTile_outByte (x : Fin 3) (y : Nat) : (s.updTile p b t f).outByte x y = s.outByte x y := rfl
@[simp] theorem State.updTile_bsBit (x : Nat) : (s.updTile p b t f).bsBit x = s.bsBit x := rfl

end updTile

section updMb

variable (s : State) (p b t m : Nat) (f : Mb → Mb)

@[simp] theorem State.updMb_res : (s.updMb p b t m f).res = s.res := rfl
@[simp] theorem State.updMb_err : (s.updMb p b t m f).err = s.err := rfl
@[simp] theorem State.updMb_frameAborted : (s.updMb p b t m f).frameAborted = s.frameAborted := rfl
@[simp] theorem State.updMb_outValid : (s.updMb p b t m f).outValid = s.outValid := rfl
@[simp] theorem State.updMb_fstep : (s.updMb p b t m f).fstep = s.fstep := rfl
@[simp] theorem State.updMb_br : (s.updMb p b t m f).br = s.br := rfl
@[simp] theorem State.updMb_frameType : (s.updMb p b t m f).frameType = s.frameType := rfl
@[simp] theorem State.updMb_prevFrameType : (s.updMb p b t m f).prevFrameType = s.prevFrameType := rfl
@[simp] theorem State.updMb_rot : (s.updMb p b t m f).rot = s.rot := rfl
@[simp] theorem State.updMb_bufInvalid : (s.updMb p b t m f).bufInvalid = s.bufInvalid := rfl
@[simp] theorem State.updMb_picConf : (s.updMb p b t m f).picConf = s.picConf := rfl
@[simp] theorem State.updMb_hdr : (s.updMb p b t m f).hdr = s.hdr := rfl
@[simp] theorem State.updMb_alloc : (s.updMb p b t m f).alloc = s.alloc := rfl
@[simp] theorem State.updMb_mbVlc : (s.updMb p b t m f).mbVlc = s.mbVlc := rfl
@[simp] theorem State.updMb_blkVlc : (s.updMb p b t m f).blkVlc = s.blkVlc := rfl
@[simp] theorem State.updMb_slot48 : (s.updMb p b t m f).slot48 = s.slot48 := rfl
@[simp] theorem State.updMb_predefMb : (s.updMb p b t m f).predefMb = s.predefMb := rfl
@[simp] theorem State.updMb_predefBlk : (s.updMb p b t m f).predefBlk = s.predefBlk := rfl
@[simp] theorem State.updMb_rvmaps : (s.updMb p b t m f).rvmaps = s.rvmaps := rfl
@[simp] theorem State.updMb_scratch : (s.updMb p b t m f).scratch = s.scratch := rfl
@[simp] theorem State.updMb_mem : (s.updMb p b t m f).mem = s.mem := rfl
@[simp] theorem State.updMb_params : (s.updMb p b t m f).params = s.params := rfl
@[simp] theorem State.updMb_outPitch : (s.updMb p b t m f).outPitch = s.outPitch := rfl
@[simp] theorem State.updMb_port : (s.updMb p b t m f).port = s.port := rfl
@[simp] theorem State.updMb_opr : (s.updMb p b t m f).opr = s.opr := rfl
@[simp] theorem State.updMb_draws : (s.updMb p b t m f).draws = s.draws := rfl
@[simp] theorem State.updMb_bound : (s.updMb p b t m f).bound = s.bound := rfl
@[simp] theorem State.updMb_avail (x : Nat) : (s.updMb p b t m f).avail x = s.avail x := rfl
@[simp] theorem State.updMb_bufferOpt (x y z : Nat) : (s.updMb p b t m f).buffer? x y z = s.buffer? x y z := rfl
@[simp] theorem State.updMb_hasBuffer (x y z : Nat) : (s.updMb p b t m f).hasBuffer x y z = s.hasBuffer x y z := rfl
@[simp] theorem State.updMb_sample (x y z w : Nat) : (s.updMb p b t m f).sample x y z w = s.sample x y z w := rfl
@[simp] theorem State.updMb_outByte (x : Fin 3) (y : Nat) : (s.updMb p b t m f).outByte x y = s.outByte x y := rfl
@[simp] theorem State.updMb_bsBit (x : Nat) : (s.updMb p b t m f).bsBit x = s.bsBit x := rfl

end updMb

section allocate

variable (s : State) (c : PicConf)

@[simp] theorem State.allocate_res : (s.allocate c).res = s.res := rfl
@[simp] theorem State.allocate_err : (s.allocate c).err = s.err := rfl
@[simp] theorem State.allocate_frameAborted : (s.allocate c).frameAborted = s.frameAborted := rfl
@[simp] theorem State.allocate_outValid : (s.allocate c).outValid = s.outValid := rfl
@[simp] theorem State.allocate_fstep : (s.allocate c).fstep = s.fstep := rfl
@[simp] theorem State.allocate_br : (s.allocate c).br = s.br := rfl
@[simp] theorem State.allocate_frameType : (s.allocate c).frameType = s.frameType := rfl
@[simp] theorem State.allocate_prevFrameType : (s.allocate c).prevFrameType = s.prevFrameType := rfl
@[simp] theorem State.allocate_rot : (s.allocate c).rot = s.rot := rfl
@[simp] theorem State.allocate_bufInvalid : (s.allocate c).bufInvalid = s.bufInvalid := rfl
@[simp] theorem State.allocate_picConf : (s.allocate c).picConf = s.picConf := rfl
@[simp] theorem State.allocate_hdr : (s.allocate c).hdr = s.hdr := rfl
@[simp] theorem State.allocate_alloc : (s.allocate c).alloc = .uninit := rfl
@[simp] theorem State.allocate_mbVlc : (s.allocate c).mbVlc = s.mbVlc := rfl
@[simp] theorem State.allocate_blkVlc : (s.allocate c).blkVlc = s.blkVlc := rfl
@[simp] theorem State.allocate_slot48 : (s.allocate c).slot48 = s.slot48 := rfl
@[simp] theorem State.allocate_predefMb : (s.allocate c).predefMb = s.predefMb := rfl
@[simp] theorem State.allocate_predefBlk : (s.allocate c).predefBlk = s.predefBlk := rfl
@[simp] theorem State.allocate_rvmaps : (s.allocate c).rvmaps = s.rvmaps := rfl
@[simp] theorem State.allocate_planes : (s.allocate c).planes = freshPlanes s.params s.hdr.isScalable c := rfl
@[simp] theorem State.allocate_scratch : (s.allocate c).scratch = s.scratch := rfl
@[simp] theorem State.allocate_mem : (s.allocate c).mem = { s.mem with arena := freshArena s.params.codec c } := rfl
@[simp] theorem State.allocate_params : (s.allocate c).params = s.params := rfl
@[simp] theorem State.allocate_outPitch : (s.allocate c).outPitch = s.outPitch := rfl
@[simp] theorem State.allocate_port : (s.allocate c).port = s.port := rfl
@[simp] theorem State.allocate_opr : (s.allocate c).opr = s.opr := rfl
@[simp] theorem State.allocate_draws : (s.allocate c).draws = s.draws := rfl
@[simp] theorem State.allocate_bound : (s.allocate c).bound = s.bound := rfl
@[simp] theorem State.allocate_avail (x : Nat) : (s.allocate c).avail x = s.avail x := rfl
@[simp] theorem State.allocate_outByte (x : Fin 3) (y : Nat) : (s.allocate c).outByte x y = s.outByte x y := rfl
@[simp] theorem State.allocate_bsBit (x : Nat) : (s.allocate c).bsBit x = s.bsBit x := rfl

end allocate

section deallocate

variable (s : State)

@[simp] theorem State.deallocate_res : s.deallocate.res = s.res := rfl
@[simp] theorem State.deallocate_err : s.deallocate.err = s.err := rfl
@[simp] theorem State.deallocate_frameAborted : s.deallocate.frameAborted = s.frameAborted := rfl
@[simp] theorem State.deallocate_outValid : s.deallocate.outValid = s.outValid := rfl
@[simp] theorem State.deallocate_fstep : s.deallocate.fstep = s.fstep := rfl
@[simp] theorem State.deallocate_br : s.deallocate.br = s.br := rfl
@[simp] theorem State.deallocate_frameType : s.deallocate.frameType = s.frameType := rfl
@[simp] theorem State.deallocate_prevFrameType : s.deallocate.prevFrameType = s.prevFrameType := rfl
@[simp] theorem State.deallocate_rot : s.deallocate.rot = s.rot := rfl
@[simp] theorem State.deallocate_bufInvalid : s.deallocate.bufInvalid = s.bufInvalid := rfl
@[simp] theorem State.deallocate_picConf : s.deallocate.picConf = s.picConf := rfl
@[simp] theorem State.deallocate_hdr : s.deallocate.hdr = s.hdr := rfl
@[simp] theorem State.deallocate_alloc : s.deallocate.alloc = .uninit := rfl
@[simp] theorem State.deallocate_mbVlc : s.deallocate.mbVlc = s.mbVlc := rfl
@[simp] theorem State.deallocate_blkVlc : s.deallocate.blkVlc = s.blkVlc := rfl
@[simp] theorem State.deallocate_slot48 : s.deallocate.slot48 = s.slot48 := rfl
@[simp] theorem State.deallocate_predefMb : s.deallocate.predefMb = s.predefMb := rfl
@[simp] theorem State.deallocate_predefBlk : s.deallocate.predefBlk = s.predefBlk := rfl
@[simp] theorem State.deallocate_rvmaps : s.deallocate.rvmaps = s.rvmaps := rfl
@[simp] theorem State.deallocate_planes : s.deallocate.planes = Vector.replicate 3 Plane.none := rfl
@[simp] theorem State.deallocate_scratch : s.deallocate.scratch = s.scratch := rfl
@[simp] theorem State.deallocate_mem : s.deallocate.mem = { s.mem with arena := [] } := rfl
@[simp] theorem State.deallocate_params : s.deallocate.params = s.params := rfl
@[simp] theorem State.deallocate_outPitch : s.deallocate.outPitch = s.outPitch := rfl
@[simp] theorem State.deallocate_port : s.deallocate.port = s.port := rfl
@[simp] theorem State.deallocate_opr : s.deallocate.opr = s.opr := rfl
@[simp] theorem State.deallocate_draws : s.deallocate.draws = s.draws := rfl
@[simp] theorem State.deallocate_bound : s.deallocate.bound = s.bound := rfl
@[simp] theorem State.deallocate_avail (x : Nat) : s.deallocate.avail x = s.avail x := rfl
@[simp] theorem State.deallocate_outByte (x : Fin 3) (y : Nat) : s.deallocate.outByte x y = s.outByte x y := rfl
@[simp] theorem State.deallocate_bsBit (x : Nat) : s.deallocate.bsBit x = s.bsBit x := rfl

end deallocate

section setDefaultSizes

variable (s : State)

@[simp] theorem State.setDefaultSizes_res : s.setDefaultSizes.res = s.res := rfl
@[simp] theorem State.setDefaultSizes_err : s.setDefaultSizes.err = s.err := rfl
@[simp] theorem State.setDefaultSizes_frameAborted : s.setDefaultSizes.frameAborted = s.frameAborted := rfl
@[simp] theorem State.setDefaultSizes_outValid : s.setDefaultSizes.outValid = s.outValid := rfl
@[simp] theorem State.setDefaultSizes_fstep : s.setDefaultSizes.fstep = s.fstep := rfl
@[simp] theorem State.setDefaultSizes_br : s.setDefaultSizes.br = s.br := rfl
@[simp] theorem State.setDefaultSizes_frameType : s.setDefaultSizes.frameType = s.frameType := rfl
@[simp] theorem State.setDefaultSizes_prevFrameType : s.setDefaultSizes.prevFrameType = s.prevFrameType := rfl
@[simp] theorem State.setDefaultSizes_rot : s.setDefaultSizes.rot = s.rot := rfl
@[simp] theorem State.setDefaultSizes_bufInvalid : s.setDefaultSizes.bufInvalid = s.bufInvalid := rfl
@[simp] theorem State.setDefaultSizes_picConf : s.setDefaultSizes.picConf = s.picConf := rfl
@[simp] theorem State.setDefaultSizes_hdr : s.setDefaultSizes.hdr = s.hdr := rfl
@[simp] theorem State.setDefaultSizes_alloc : s.setDefaultSizes.alloc = s.alloc := rfl
@[simp] theorem State.setDefaultSizes_mbVlc : s.setDefaultSizes.mbVlc = s.mbVlc := rfl
@[simp] theorem State.setDefaultSizes_blkVlc : s.setDefaultSizes.blkVlc = s.blkVlc := rfl
@[simp] theorem State.setDefaultSizes_slot48 : s.setDefaultSizes.slot48 = s.slot48 := rfl
@[simp] theorem State.setDefaultSizes_predefMb : s.setDefaultSizes.predefMb = s.predefMb := rfl
@[simp] theorem State.setDefaultSizes_predefBlk : s.setDefaultSizes.predefBlk = s.predefBlk := rfl
@[simp] theorem State.setDefaultSizes_rvmaps : s.setDefaultSizes.rvmaps = s.rvmaps := rfl
@[simp] theorem State.setDefaultSizes_scratch : s.setDefaultSizes.scratch = s.scratch := rfl
@[simp] theorem State.setDefaultSizes_mem : s.setDefaultSizes.mem = s.mem := rfl
@[simp] theorem State.setDefaultSizes_params : s.setDefaultSizes.params = s.params := rfl
@[simp] theorem State.setDefaultSizes_outPitch : s.setDefaultSizes.outPitch = s.outPitch := rfl
@[simp] theorem State.setDefaultSizes_port : s.setDefaultSizes.port = s.port := rfl
@[simp] theorem State.setDefaultSizes_opr : s.setDefaultSizes.opr = s.opr := rfl
@[simp] theorem State.setDefaultSizes_draws : s.setDefaultSizes.draws = s.draws := rfl
@[simp] theorem State.setDefaultSizes_bound : s.setDefaultSizes.bound = s.bound := rfl
@[simp] theorem State.setDefaultSizes_avail (x : Nat) : s.setDefaultSizes.avail x = s.avail x := rfl
@[simp] theorem State.setDefaultSizes_bufferOpt (x y z : Nat) : s.setDefaultSizes.buffer? x y z = s.buffer? x y z := rfl
@[simp] theorem State.setDefaultSizes_hasBuffer (x y z : Nat) : s.setDefaultSizes.hasBuffer x y z = s.hasBuffer x y z := rfl
@[simp] theorem State.setDefaultSizes_sample (x y z w : Nat) : s.setDefaultSizes.sample x y z w = s.sample x y z w := rfl
@[simp] theorem State.setDefaultSizes_outByte (x : Fin 3) (y : Nat) : s.setDefaultSizes.outByte x y = s.outByte x y := rfl
@[simp] theorem State.setDefaultSizes_bsBit (x : Nat) : s.setDefaultSizes.bsBit x = s.bsBit x := rfl

end setDefaultSizes

section writeBlock

variable (s : State) (d : Dst) (pitch n : Nat) (o : KernelOut)

@[simp] theorem State.writeBlock_res : (s.writeBlock d pitch n o).res = s.res := rfl
@[simp] theorem State.writeBlock_err : (s.writeBlock d pitch n o).err = s.err := rfl
@[simp] theorem State.writeBlock_frameAborted : (s.writeBlock d pitch n o).frameAborted = s.frameAborted := rfl
@[simp] theorem State.writeBlock_outValid : (s.writeBlock d pitch n o).outValid = s.outValid := rfl
@[simp] theorem State.writeBlock_fstep : (s.writeBlock d pitch n o).fstep = s.fstep := rfl
@[simp] theorem State.writeBlock_br : (s.writeBlock d pitch n o).br = s.br := rfl
@[simp] theorem State.writeBlock_frameType : (s.writeBlock d pitch n o).frameType = s.frameType := rfl
@[simp] theorem State.writeBlock_prevFrameType : (s.writeBlock d pitch n o).prevFrameType = s.prevFrameType := rfl
@[simp] theorem State.writeBlock_rot : (s.writeBlock d pitch n o).rot = s.rot := rfl
@[simp] theorem State.writeBlock_bufInvalid : (s.writeBlock d pitch n o).bufInvalid = s.bufInvalid := rfl
@[simp] theorem State.writeBlock_picConf : (s.writeBlock d pitch n o).picConf = s.picConf := rfl
@[simp] theorem State.writeBlock_hdr : (s.writeBlock d pitch n o).hdr = s.hdr := rfl
@[simp] theorem State.writeBlock_alloc : (s.writeBlock d pitch n o).alloc = s.alloc := rfl
@[simp] theorem State.writeBlock_mbVlc : (s.writeBlock d pitch n o).mbVlc = s.mbVlc := rfl
@[simp] theorem State.writeBlock_blkVlc : (s.writeBlock d pitch n o).blkVlc = s.blkVlc := rfl
@[simp] theorem State.writeBlock_slot48 : (s.writeBlock d pitch n o).slot48 = s.slot48 := rfl
@[simp] theorem State.writeBlock_predefMb : (s.writeBlock d pitch n o).predefMb = s.predefMb := rfl
@[simp] theorem State.writeBlock_predefBlk : (s.writeBlock d pitch n o).predefBlk = s.predefBlk := rfl
@[simp] theorem State.writeBlock_rvmaps : (s.writeBlock d pitch n o).rvmaps = s.rvmaps := rfl
@[simp] theorem State.writeBlock_planes : (s.writeBlock d pitch n o).planes = s.planes := rfl
@[simp] theorem State.writeBlock_scratch : (s.writeBlock d pitch n o).scratch = s.scratch := rfl
@[simp] theorem State.writeBlock_params : (s.writeBlock d pitch n o).params = s.params := rfl
@[simp] theorem State.writeBlock_outPitch : (s.writeBlock d pitch n o).outPitch = s.outPitch := rfl
@[simp] theorem State.writeBlock_port : (s.writeBlock d pitch n o).port = s.port := rfl
@[simp] theorem State.writeBlock_opr : (s.writeBlock d pitch n o).opr = s.opr := rfl
@[simp] theorem State.writeBlock_draws : (s.writeBlock d pitch n o).draws = (if kernelOk o then s.draws else s.draws + n * n) := rfl
@[simp] theorem State.writeBlock_bound : (s.writeBlock d pitch n o).bound = s.bound := rfl
@[simp] theorem State.writeBlock_avail (x : Nat) : (s.writeBlock d pitch n o).avail x = s.avail x := rfl
@[simp] theorem State.writeBlock_bandOpt (x y : Nat) : (s.writeBlock d pitch n o).band? x y = s.band? x y := rfl
@[simp] theorem State.writeBlock_tileOpt (x y z : Nat) : (s.writeBlock d pitch n o).tile? x y z = s.tile? x y z := rfl
@[simp] theorem State.writeBlock_mbOpt (x y z w : Nat) : (s.writeBlock d pitch n o).mb? x y z w = s.mb? x y z w := rfl
@[simp] theorem State.writeBlock_outByte (x : Fin 3) (y : Nat) : (s.writeBlock d pitch n o).outByte x y = s.outByte x y := rfl
@[simp] theorem State.writeBlock_bsBit (x : Nat) : (s.writeBlock d pitch n o).bsBit x = s.bsBit x := rfl

end writeBlock

section mcWrite

variable (s : State) (o : McOps) (n : Nat) (dl : Bool) (v : Nat → Nat → Int)

@[simp] theorem State.mcWrite_res : (s.mcWrite o n dl v).res = s.res := rfl
@[simp] theorem State.mcWrite_err : (s.mcWrite o n dl v).err = s.err := rfl
@[simp] theorem State.mcWrite_frameAborted : (s.mcWrite o n dl v).frameAborted = s.frameAborted := rfl
@[simp] theorem State.mcWrite_outValid : (s.mcWrite o n dl v).outValid = s.outValid := rfl
@[simp] theorem State.mcWrite_fstep : (s.mcWrite o n dl v).fstep = s.fstep := rfl
@[simp] theorem State.mcWrite_br : (s.mcWrite o n dl v).br = s.br := rfl
@[simp] theorem State.mcWrite_frameType : (s.mcWrite o n dl v).frameType = s.frameType := rfl
@[simp] theorem State.mcWrite_prevFrameType : (s.mcWrite o n dl v).prevFrameType = s.prevFrameType := rfl
@[simp] theorem State.mcWrite_rot : (s.mcWrite o n dl v).rot = s.rot := rfl
@[simp] theorem State.mcWrite_bufInvalid : (s.mcWrite o n dl v).bufInvalid = s.bufInvalid := rfl
@[simp] theorem State.mcWrite_picConf : (s.mcWrite o n dl v).picConf = s.picConf := rfl
@[simp] theorem State.mcWrite_hdr : (s.mcWrite o n dl v).hdr = s.hdr := rfl
@[simp] theorem State.mcWrite_alloc : (s.mcWrite o n dl v).alloc = s.alloc := rfl
@[simp] theorem State.mcWrite_mbVlc : (s.mcWrite o n dl v).mbVlc = s.mbVlc := rfl
@[simp] theorem State.mcWrite_blkVlc : (s.mcWrite o n dl v).blkVlc = s.blkVlc := rfl
@[simp] theorem State.mcWrite_slot48 : (s.mcWrite o n dl v).slot48 = s.slot48 := rfl
@[simp] theorem State.mcWrite_predefMb : (s.mcWrite o n dl v).predefMb = s.predefMb := rfl
@[simp] theorem State.mcWrite_predefBlk : (s.mcWrite o n dl v).predefBlk = s.predefBlk := rfl
@[simp] theorem State.mcWrite_rvmaps : (s.mcWrite o n dl v).rvmaps = s.rvmaps := rfl
@[simp] theorem State.mcWrite_planes : (s.mcWrite o n dl v).planes = s.planes := rfl
@[simp] theorem State.mcWrite_scratch : (s.mcWrite o n dl v).scratch = s.scratch := rfl
@[simp] theorem State.mcWrite_params : (s.mcWrite o n dl v).params = s.params := rfl
@[simp] theorem State.mcWrite_outPitch : (s.mcWrite o n dl v).outPitch = s.outPitch := rfl
@[simp] theorem State.mcWrite_port : (s.mcWrite o n dl v).port = s.port := rfl
@[simp] theorem State.mcWrite_opr : (s.mcWrite o n dl v).opr = s.opr := rfl
@[simp] theorem State.mcWrite_draws : (s.mcWrite o n dl v).draws = s.draws := rfl
@[simp] theorem State.mcWrite_bound : (s.mcWrite o n dl v).bound = s.bound := rfl
@[simp] theorem State.mcWrite_avail (x : Nat) : (s.mcWrite o n dl v).avail x = s.avail x := rfl
@[simp] theorem State.mcWrite_bandOpt (x y : Nat) : (s.mcWrite o n dl v).band? x y = s.band? x y := rfl
@[simp] theorem State.mcWrite_tileOpt (x y z : Nat) : (s.mcWrite o n dl v).tile? x y z = s.tile? x y z := rfl
@[simp] theorem State.mcWrite_mbOpt (x y z w : Nat) : (s.mcWrite o n dl v).mb? x y z w = s.mb? x y z w := rfl
@[simp] theorem State.mcWrite_outByte (x : Fin 3) (y : Nat) : (s.mcWrite o n dl v).outByte x y = s.outByte x y := rfl
@[simp] theorem State.mcWrite_bsBit (x : Nat) : (s.mcWrite o n dl v).bsBit x = s.bsBit x := rfl

end mcWrite

section withMcTmp

variable (s : State) (n : Nat) (f : Nat → Nat → Sample)

@[simp] theorem State.withMcTmp_res : (s.withMcTmp n f).res = s.res := by simp only [State.withMcTmp]
@[simp] theorem State.withMcTmp_err : (s.withMcTmp n f).err = s.err := by simp only [State.withMcTmp]
@[simp] theorem State.withMcTmp_frameAborted : (s.withMcTmp n f).frameAborted = s.frameAborted := by simp only [State.withMcTmp]
@[simp] theorem State.withMcTmp_outValid : (s.withMcTmp n f).outValid = s.outValid := by simp only [State.withMcTmp]
@[simp] theorem State.withMcTmp_fstep : (s.withMcTmp n f).fstep = s.fstep := by simp only [State.withMcTmp]
@[simp] theorem State.withMcTmp_br : (s.withMcTmp n f).br = s.br := by simp only [State.withMcTmp]
@[simp] theorem State.withMcTmp_frameType : (s.withMcTmp n f).frameType = s.frameType := by simp only [State.withMcTmp]
@[simp] theorem State.withMcTmp_prevFrameType : (s.withMcTmp n f).prevFrameType = s.prevFrameType := by simp only [State.withMcTmp]
@[simp] theorem State.withMcTmp_rot : (s.withMcTmp n f).rot = s.rot := by simp only [State.withMcTmp]
@[simp] theorem State.withMcTmp_bufInvalid : (s.withMcTmp n f).bufInvalid = s.bufInvalid := by simp only [State.withMcTmp]
@[simp] theorem State.withMcTmp_picConf : (s.withMcTmp n f).picConf = s.picConf := by simp only [State.withMcTmp]
@[simp] theorem State.withMcTmp_hdr : (s.withMcTmp n f).hdr = s.hdr := by simp only [State.withMcTmp]
@[simp] theorem State.withMcTmp_alloc : (s.withMcTmp n f).alloc = s.alloc := by simp only [State.withMcTmp]
@[simp] theorem State.withMcTmp_mbVlc : (s.withMcTmp n f).mbVlc = s.mbVlc := by simp only [State.withMcTmp]
@[simp] theorem State.withMcTmp_blkVlc : (s.withMcTmp n f).blkVlc = s.blkVlc := by simp only [State.withMcTmp]
@[simp] theorem State.withMcTmp_slot48 : (s.withMcTmp n f).slot48 = s.slot48 := by simp only [State.withMcTmp]
@[simp] theorem State.withMcTmp_predefMb : (s.withMcTmp n f).predefMb = s.predefMb := by simp only [State.withMcTmp]
@[simp] theorem State.withMcTmp_predefBlk : (s.withMcTmp n f).predefBlk = s.predefBlk := by simp only [State.withMcTmp]
@[simp] theorem State.withMcTmp_rvmaps : (s.withMcTmp n f).rvmaps = s.rvmaps := by simp only [State.withMcTmp]
@[simp] theorem State.withMcTmp_planes : (s.withMcTmp n f).planes = s.planes := by simp only [State.withMcTmp]
@[simp] theorem State.withMcTmp_scratch : (s.withMcTmp n f).scratch = { s.scratch with mctmp := mcTmpOf s.scratch.mctmp n f } := by simp only [State.withMcTmp]
@[simp] theorem State.withMcTmp_mem : (s.withMcTmp n f).mem = s.mem := by simp only [State.withMcTmp]
@[simp] theorem State.withMcTmp_params : (s.withMcTmp n f).params = s.params := by simp only [State.withMcTmp]
@[simp] theorem State.withMcTmp_outPitch : (s.withMcTmp n f).outPitch = s.outPitch := by simp only [State.withMcTmp]
@[simp] theorem State.withMcTmp_port : (s.withMcTmp n f).port = s.port := by simp only [State.withMcTmp]
@[simp] theorem State.withMcTmp_opr : (s.withMcTmp n f).opr = s.opr := by simp only [State.withMcTmp]
@[simp] theorem State.withMcTmp_draws : (s.withMcTmp n f).draws = s.draws := by simp only [State.withMcTmp]
@[simp] theorem State.withMcTmp_bound : (s.withMcTmp n f).bound = s.bound := by
  simp only [State.bound, State.withMcTmp_br]
@[simp] theorem State.withMcTmp_avail (x : Nat) : (s.withMcTmp n f).avail x = s.avail x := by
  simp only [State.avail, State.withMcTmp_br, State.withMcTmp_params]
@[simp] theorem State.withMcTmp_bandOpt (x y : Nat) : (s.withMcTmp n f).band? x y = s.band? x y := by
  simp only [State.band?, State.plane?, State.withMcTmp_planes]
@[simp] theorem State.withMcTmp_tileOpt (x y z : Nat) : (s.withMcTmp n f).tile? x y z = s.tile? x y z := by
  simp only [State.tile?, State.band?, State.plane?, State.withMcTmp_planes]
@[simp] theorem State.withMcTmp_mbOpt (x y z w : Nat) : (s.withMcTmp n f).mb? x y z w = s.mb? x y z w := by
  simp only [State.mb?, State.tile?, State.band?, State.plane?, State.withMcTmp_planes]
@[simp] theorem State.withMcTmp_bufferOpt (x y z : Nat) : (s.withMcTmp n f).buffer? x y z = s.buffer? x y z := by
  simp only [State.buffer?, State.withMcTmp_mem]
@[simp] theorem State.withMcTmp_hasBuffer (x y z : Nat) : (s.withMcTmp n f).hasBuffer x y z = s.hasBuffer x y z := by
  simp only [State.hasBuffer, State.buffer?, State.withMcTmp_mem]
@[simp] theorem State.withMcTmp_sample (x y z w : Nat) : (s.withMcTmp n f).sample x y z w = s.sample x y z w := by
  simp only [State.sample, State.bufferOf, State.buffer?, State.withMcTmp_mem]
@[simp] theorem State.withMcTmp_outByte (x : Fin 3) (y : Nat) : (s.withMcTmp n f).outByte x y = s.outByte x y := by
  simp only [State.outByte, State.outPlane, State.withMcTmp_mem]
@[simp] theorem State.withMcTmp_bsBit (x : Nat) : (s.withMcTmp n f).bsBit x = s.bsBit x := by
  simp only [State.bsBit, State.withMcTmp_br, State.withMcTmp_params]

end withMcTmp

section updRvmap

variable (s : State) (i : Fin 9) (f : RvMap → RvMap)

@[simp] theorem State.updRvmap_res : (s.updRvmap i f).res = s.res := rfl
@[simp] theorem State.updRvmap_err : (s.updRvmap i f).err = s.err := rfl
@[simp] theorem State.updRvmap_frameAborted : (s.updRvmap i f).frameAborted = s.frameAborted := rfl
@[simp] theorem State.updRvmap_outValid : (s.updRvmap i f).outValid = s.outValid := rfl
@[simp] theorem State.updRvmap_fstep : (s.updRvmap i f).fstep = s.fstep := rfl
@[simp] theorem State.updRvmap_br : (s.updRvmap i f).br = s.br := rfl
@[simp] theorem State.updRvmap_frameType : (s.updRvmap i f).frameType = s.frameType := rfl
@[simp] theorem State.updRvmap_prevFrameType : (s.updRvmap i f).prevFrameType = s.prevFrameType := rfl
@[simp] theorem State.updRvmap_rot : (s.updRvmap i f).rot = s.rot := rfl
@[simp] theorem State.updRvmap_bufInvalid : (s.updRvmap i f).bufInvalid = s.bufInvalid := rfl
@[simp] theorem State.updRvmap_picConf : (s.updRvmap i f).picConf = s.picConf := rfl
@[simp] theorem State.updRvmap_hdr : (s.updRvmap i f).hdr = s.hdr := rfl
@[simp] theorem State.updRvmap_alloc : (s.updRvmap i f).alloc = s.alloc := rfl
@[simp] theorem State.updRvmap_mbVlc : (s.updRvmap i f).mbVlc = s.mbVlc := rfl
@[simp] theorem State.updRvmap_blkVlc : (s.updRvmap i f).blkVlc = s.blkVlc := rfl
@[simp] theorem State.updRvmap_slot48 : (s.updRvmap i f).slot48 = s.slot48 := rfl
@[simp] theorem State.updRvmap_predefMb : (s.updRvmap i f).predefMb = s.predefMb := rfl
@[simp] theorem State.updRvmap_predefBlk : (s.updRvmap i f).predefBlk = s.predefBlk := rfl
@[simp] theorem State.updRvmap_rvmaps : (s.updRvmap i f).rvmaps = s.rvmaps.set i (f s.rvmaps[i]) := rfl
@[simp] theorem State.updRvmap_planes : (s.updRvmap i f).planes = s.planes := rfl
@[simp] theorem State.updRvmap_scratch : (s.updRvmap i f).scratch = s.scratch := rfl
@[simp] theorem State.updRvmap_mem : (s.updRvmap i f).mem = s.mem := rfl
@[simp] theorem State.updRvmap_params : (s.updRvmap i f).params = s.params := rfl
@[simp] theorem State.updRvmap_outPitch : (s.updRvmap i f).outPitch = s.outPitch := rfl
@[simp] theorem State.updRvmap_port : (s.updRvmap i f).port = s.port := rfl
@[simp] theorem State.updRvmap_opr : (s.updRvmap i f).opr = s.opr := rfl
@[simp] theorem State.updRvmap_draws : (s.updRvmap i f).draws = s.draws := rfl
@[simp] theorem State.updRvmap_bound : (s.updRvmap i f).bound = s.bound := rfl
@[simp] theorem State.updRvmap_avail (x : Nat) : (s.updRvmap i f).avail x = s.avail x := rfl
@[simp] theorem State.updRvmap_bandOpt (x y : Nat) : (s.updRvmap i f).band? x y = s.band? x y := rfl
@[simp] theorem State.updRvmap_tileOpt (x y z : Nat) : (s.updRvmap i f).tile? x y z = s.tile? x y z := rfl
@[simp] theorem State.updRvmap_mbOpt (x y z w : Nat) : (s.updRvmap i f).mb? x y z w = s.mb? x y z w := rfl
@[simp] theorem State.updRvmap_bufferOpt (x y z : Nat) : (s.updRvmap i f).buffer? x y z = s.buffer? x y z := rfl
@[simp] theorem State.updRvmap_hasBuffer (x y z : Nat) : (s.updRvmap i f).hasBuffer x y z = s.hasBuffer x y z := rfl
@[simp] theorem State.updRvmap_sample (x y z w : Nat) : (s.updRvmap i f).sample x y z w = s.sample x y z w := rfl
@[simp] theorem State.updRvmap_outByte (x : Fin 3) (y : Nat) : (s.updRvmap i f).outByte x y = s.outByte x y := rfl
@[simp] theorem State.updRvmap_bsBit (x : Nat) : (s.updRvmap i f).bsBit x = s.bsBit x := rfl

end updRvmap

section switchBuf

variable (s : State)

@[simp] theorem State.switchBuf_res : s.switchBuf.res = s.res := rfl
@[simp] theorem State.switchBuf_err : s.switchBuf.err = s.err := rfl
@[simp] theorem State.switchBuf_frameAborted : s.switchBuf.frameAborted = s.frameAborted := rfl
@[simp] theorem State.switchBuf_outValid : s.switchBuf.outValid = s.outValid := rfl
@[simp] theorem State.switchBuf_fstep : s.switchBuf.fstep = s.fstep := rfl
@[simp] theorem State.switchBuf_br : s.switchBuf.br = s.br := rfl
@[simp] theorem State.switchBuf_frameType : s.switchBuf.frameType = s.frameType := rfl
@[simp] theorem State.switchBuf_prevFrameType : s.switchBuf.prevFrameType = s.prevFrameType := rfl
@[simp] theorem State.switchBuf_rot : s.switchBuf.rot = advance s.params s.prevFrameType s.frameType s.rot := rfl
@[simp] theorem State.switchBuf_bufInvalid : s.switchBuf.bufInvalid = s.bufInvalid := rfl
@[simp] theorem State.switchBuf_picConf : s.switchBuf.picConf = s.picConf := rfl
@[simp] theorem State.switchBuf_hdr : s.switchBuf.hdr = s.hdr := rfl
@[simp] theorem State.switchBuf_alloc : s.switchBuf.alloc = s.alloc := rfl
@[simp] theorem State.switchBuf_mbVlc : s.switchBuf.mbVlc = s.mbVlc := rfl
@[simp] theorem State.switchBuf_blkVlc : s.switchBuf.blkVlc = s.blkVlc := rfl
@[simp] theorem State.switchBuf_slot48 : s.switchBuf.slot48 = s.slot48 := rfl
@[simp] theorem State.switchBuf_predefMb : s.switchBuf.predefMb = s.predefMb := rfl
@[simp] theorem State.switchBuf_predefBlk : s.switchBuf.predefBlk = s.predefBlk := rfl
@[simp] theorem State.switchBuf_rvmaps : s.switchBuf.rvmaps = s.rvmaps := rfl
@[simp] theorem State.switchBuf_planes : s.switchBuf.planes = s.planes := rfl
@[simp] theorem State.switchBuf_scratch : s.switchBuf.scratch = s.scratch := rfl
@[simp] theorem State.switchBuf_mem : s.switchBuf.mem = s.mem := rfl
@[simp] theorem State.switchBuf_params : s.switchBuf.params = s.params := rfl
@[simp] theorem State.switchBuf_outPitch : s.switchBuf.outPitch = s.outPitch := rfl
@[simp] theorem State.switchBuf_port : s.switchBuf.port = s.port := rfl
@[simp] theorem State.switchBuf_opr : s.switchBuf.opr = s.opr := rfl
@[simp] theorem State.switchBuf_draws : s.switchBuf.draws = s.draws := rfl
@[simp] theorem State.switchBuf_bound : s.switchBuf.bound = s.bound := rfl
@[simp] theorem State.switchBuf_avail (x : Nat) : s.switchBuf.avail x = s.avail x := rfl
@[simp] theorem State.switchBuf_bandOpt (x y : Nat) : s.switchBuf.band? x y = s.band? x y := rfl
@[simp] theorem State.switchBuf_tileOpt (x y z : Nat) : s.switchBuf.tile? x y z = s.tile? x y z := rfl
@[simp] theorem State.switchBuf_mbOpt (x y z w : Nat) : s.switchBuf.mb? x y z w = s.mb? x y z w := rfl
@[simp] theorem State.switchBuf_bufferOpt (x y z : Nat) : s.switchBuf.buffer? x y z = s.buffer? x y z := rfl
@[simp] theorem State.switchBuf_hasBuffer (x y z : Nat) : s.switchBuf.hasBuffer x y z = s.hasBuffer x y z := rfl
@[simp] theorem State.switchBuf_sample (x y z w : Nat) : s.switchBuf.sample x y z w = s.sample x y z w := rfl
@[simp] theorem State.switchBuf_outByte (x : Fin 3) (y : Nat) : s.switchBuf.outByte x y = s.outByte x y := rfl
@[simp] theorem State.switchBuf_bsBit (x : Nat) : s.switchBuf.bsBit x = s.bsBit x := rfl

end switchBuf

section pushCommand

variable (s : State) (c : HostCmd)

@[simp] theorem State.pushCommand_res : (s.pushCommand c).res = s.res := rfl
@[simp] theorem State.pushCommand_err : (s.pushCommand c).err = s.err := rfl
@[simp] theorem State.pushCommand_frameAborted : (s.pushCommand c).frameAborted = s.frameAborted := rfl
@[simp] theorem State.pushCommand_outValid : (s.pushCommand c).outValid = s.outValid := rfl
@[simp] theorem State.pushCommand_fstep : (s.pushCommand c).fstep = s.fstep := rfl
@[simp] theorem State.pushCommand_br : (s.pushCommand c).br = s.br := rfl
@[simp] theorem State.pushCommand_frameType : (s.pushCommand c).frameType = s.frameType := rfl
@[simp] theorem State.pushCommand_prevFrameType : (s.pushCommand c).prevFrameType = s.prevFrameType := rfl
@[simp] theorem State.pushCommand_rot : (s.pushCommand c).rot = s.rot := rfl
@[simp] theorem State.pushCommand_bufInvalid : (s.pushCommand c).bufInvalid = s.bufInvalid := rfl
@[simp] theorem State.pushCommand_picConf : (s.pushCommand c).picConf = s.picConf := rfl
@[simp] theorem State.pushCommand_hdr : (s.pushCommand c).hdr = s.hdr := rfl
@[simp] theorem State.pushCommand_alloc : (s.pushCommand c).alloc = s.alloc := rfl
@[simp] theorem State.pushCommand_mbVlc : (s.pushCommand c).mbVlc = s.mbVlc := rfl
@[simp] theorem State.pushCommand_blkVlc : (s.pushCommand c).blkVlc = s.blkVlc := rfl
@[simp] theorem State.pushCommand_slot48 : (s.pushCommand c).slot48 = s.slot48 := rfl
@[simp] theorem State.pushCommand_predefMb : (s.pushCommand c).predefMb = s.predefMb := rfl
@[simp] theorem State.pushCommand_predefBlk : (s.pushCommand c).predefBlk = s.predefBlk := rfl
@[simp] theorem State.pushCommand_rvmaps : (s.pushCommand c).rvmaps = s.rvmaps := rfl
@[simp] theorem State.pushCommand_planes : (s.pushCommand c).planes = s.planes := rfl
@[simp] theorem State.pushCommand_scratch : (s.pushCommand c).scratch = s.scratch := rfl
@[simp] theorem State.pushCommand_mem : (s.pushCommand c).mem = s.mem := rfl
@[simp] theorem State.pushCommand_params : (s.pushCommand c).params = s.params := rfl
@[simp] theorem State.pushCommand_outPitch : (s.pushCommand c).outPitch = s.outPitch := rfl
@[simp] theorem State.pushCommand_port : (s.pushCommand c).port = c :: s.port := rfl
@[simp] theorem State.pushCommand_opr : (s.pushCommand c).opr = s.opr := rfl
@[simp] theorem State.pushCommand_draws : (s.pushCommand c).draws = s.draws := rfl
@[simp] theorem State.pushCommand_bound : (s.pushCommand c).bound = s.bound := rfl
@[simp] theorem State.pushCommand_avail (x : Nat) : (s.pushCommand c).avail x = s.avail x := rfl
@[simp] theorem State.pushCommand_bandOpt (x y : Nat) : (s.pushCommand c).band? x y = s.band? x y := rfl
@[simp] theorem State.pushCommand_tileOpt (x y z : Nat) : (s.pushCommand c).tile? x y z = s.tile? x y z := rfl
@[simp] theorem State.pushCommand_mbOpt (x y z w : Nat) : (s.pushCommand c).mb? x y z w = s.mb? x y z w := rfl
@[simp] theorem State.pushCommand_bufferOpt (x y z : Nat) : (s.pushCommand c).buffer? x y z = s.buffer? x y z := rfl
@[simp] theorem State.pushCommand_hasBuffer (x y z : Nat) : (s.pushCommand c).hasBuffer x y z = s.hasBuffer x y z := rfl
@[simp] theorem State.pushCommand_sample (x y z w : Nat) : (s.pushCommand c).sample x y z w = s.sample x y z w := rfl
@[simp] theorem State.pushCommand_outByte (x : Fin 3) (y : Nat) : (s.pushCommand c).outByte x y = s.outByte x y := rfl
@[simp] theorem State.pushCommand_bsBit (x : Nat) : (s.pushCommand c).bsBit x = s.bsBit x := rfl

end pushCommand

end Sys2Proof.Machine
end

