-- ==== Sys2Proof/Laws/Memory.lean ====
section
/-! SUPPORT. The memory laws: reading after a write, and the canonical form kept by every memory operation
(20_memory.md R83 to R85). -/

namespace Sys2Proof.Machine

variable {α : Type}

/-! ### Cells -/

theorem cellsLookup_insert (l : List (Nat × α)) (x y : Nat) (v : α) :
    cellsLookup (cellsInsert l x v) y = if y = x then some v else cellsLookup l y := by
  induction l with
  | nil => simp [cellsInsert, cellsLookup, eq_comm]
  | cons c l ih =>
    obtain ⟨a, w⟩ := c
    simp only [cellsInsert]
    split_ifs with h1 h3 h2 h3 h3
    · subst h3; simp [cellsLookup]
    · simp only [cellsLookup, if_neg (Ne.symm h3)]
    · subst h3; simp [cellsLookup]
    · simp only [cellsLookup, if_neg (Ne.symm h3), if_neg (show ¬a = y by omega)]
    · subst h3; simp only [cellsLookup, if_neg (show ¬a = y by omega), ih, if_true]
    · simp only [cellsLookup, ih, if_neg h3]

theorem cellsInsert_mem {l : List (Nat × α)} {x : Nat} {v : α} {c : Nat × α}
    (h : c ∈ cellsInsert l x v) : c = (x, v) ∨ c ∈ l := by
  induction l with
  | nil => simpa [cellsInsert] using h
  | cons d l ih =>
    simp only [cellsInsert] at h
    split_ifs at h <;> simp only [List.mem_cons] at h ⊢ <;> tauto

theorem cellsErase_mem {l : List (Nat × α)} {x : Nat} {c : Nat × α} (h : c ∈ cellsErase l x) : c ∈ l := by
  induction l with
  | nil => simp [cellsErase] at h
  | cons d l ih =>
    simp only [cellsErase] at h
    split_ifs at h <;> simp only [List.mem_cons] at h ⊢ <;> tauto

theorem cellsSorted_cons {a : Nat} {v : α} {l : List (Nat × α)} :
    cellsSorted ((a, v) :: l) = true ↔ (∀ c ∈ l, a < c.1) ∧ cellsSorted l = true := by
  simp [cellsSorted]

theorem cellsSorted_insert {l : List (Nat × α)} (x : Nat) (v : α) (h : cellsSorted l = true) :
    cellsSorted (cellsInsert l x v) = true := by
  induction l with
  | nil => simp [cellsInsert, cellsSorted]
  | cons d l ih =>
    obtain ⟨a, w⟩ := d
    have h' := cellsSorted_cons.1 h
    simp only [cellsInsert]
    split_ifs with h1 h2
    · refine cellsSorted_cons.2 ⟨fun c hc => ?_, h⟩
      rcases List.mem_cons.1 hc with rfl | hc
      · exact h1
      · exact h1.trans (h'.1 c hc)
    · exact cellsSorted_cons.2 ⟨h2 ▸ h'.1, h'.2⟩
    · refine cellsSorted_cons.2 ⟨fun c hc => ?_, ih h'.2⟩
      rcases cellsInsert_mem hc with rfl | hc
      · show a < x; omega
      · exact h'.1 c hc

theorem cellsSorted_erase {l : List (Nat × α)} (x : Nat) (h : cellsSorted l = true) :
    cellsSorted (cellsErase l x) = true := by
  induction l with
  | nil => rfl
  | cons d l ih =>
    have h' := cellsSorted_cons.1 h
    simp only [cellsErase]
    split_ifs
    · exact h'.2
    · exact cellsSorted_cons.2 ⟨fun c hc => h'.1 c (cellsErase_mem hc), ih h'.2⟩

theorem cellsLookup_none {l : List (Nat × α)} {x : Nat} (h : ∀ c ∈ l, x < c.1) : cellsLookup l x = none := by
  induction l with
  | nil => rfl
  | cons d l ih =>
    have := h d (by simp)
    rw [cellsLookup, if_neg (by omega), ih fun c hc => h c (by simp [hc])]

theorem cellsLookup_erase {l : List (Nat × α)} (x y : Nat) (h : cellsSorted l = true) :
    cellsLookup (cellsErase l x) y = if y = x then none else cellsLookup l y := by
  induction l with
  | nil => simp [cellsErase, cellsLookup]
  | cons d l ih =>
    obtain ⟨a, w⟩ := d
    have h' := cellsSorted_cons.1 h
    simp only [cellsErase]
    split_ifs with h1 h2 h2
    · rw [h2, ← h1, cellsLookup_none h'.1]
    · rw [cellsLookup, if_neg (by omega)]
    · rw [cellsLookup, if_neg (by omega), ih h'.2, if_pos h2]
    · simp only [cellsLookup, ih h'.2, if_neg h2]

theorem cellsLookup_mem {l : List (Nat × α)} {x : Nat} {v : α} (h : cellsLookup l x = some v) : (x, v) ∈ l := by
  induction l with
  | nil => simp [cellsLookup] at h
  | cons d l ih =>
    obtain ⟨a, w⟩ := d
    simp only [cellsLookup] at h
    split_ifs at h with h1
    · simp_all
    · exact List.mem_cons_of_mem _ (ih h)

/-! ### Buffers -/

theorem bufWf_iff {b : Buf} : bufWf b = true ↔ cellsSorted b = true ∧ ∀ c ∈ b, c.2 ≠ 0 := by
  simp [bufWf]

theorem bufWf_nil : bufWf [] = true := rfl

theorem bufWf_write {b : Buf} (off : Nat) (v : Sample) (h : bufWf b = true) : bufWf (bufWrite b off v) = true := by
  rw [bufWf_iff] at h ⊢
  simp only [bufWrite]
  split_ifs with hv
  · exact ⟨cellsSorted_erase _ h.1, fun c hc => h.2 c (cellsErase_mem hc)⟩
  · refine ⟨cellsSorted_insert _ _ h.1, fun c hc => ?_⟩
    rcases cellsInsert_mem hc with rfl | hc
    · exact hv
    · exact h.2 c hc

/-- A sample reads as what was last written there, and every other sample as before. -/
theorem bufRead_write {b : Buf} (off x : Nat) (v : Sample) (h : bufWf b = true) :
    bufRead (bufWrite b off v) x = if x = off then v else bufRead b x := by
  rw [bufWf_iff] at h
  simp only [bufRead, bufWrite]
  split_ifs with hv hx hx <;> simp [cellsLookup_erase _ _ h.1, cellsLookup_insert, hx, hv]

theorem bufWf_storeSamples {b : Buf} (l : List (Nat × Int)) (h : bufWf b = true) :
    bufWf (storeSamples b l) = true := by
  induction l generalizing b with
  | nil => exact h
  | cons e l ih => exact ih (bufWf_write _ _ h)

/-- Stores leave every address they do not name. -/
theorem bufRead_storeSamples_other {b : Buf} {l : List (Nat × Int)} {x : Nat} (h : bufWf b = true)
    (hx : ∀ e ∈ l, e.1 ≠ x) : bufRead (storeSamples b l) x = bufRead b x := by
  induction l generalizing b with
  | nil => rfl
  | cons e l ih =>
    rw [storeSamples, ih (bufWf_write _ _ h) fun e he => hx e (by simp [he]), bufRead_write _ _ _ h,
      if_neg fun hc => hx e (by simp) hc.symm]

/-- A stored sample reads back, where no two stores name one address. -/
theorem bufRead_storeSamples_mem {b : Buf} {l : List (Nat × Int)} {x : Nat} {v : Int} (h : bufWf b = true)
    (hl : (l.map Prod.fst).Nodup) (hx : (x, v) ∈ l) : bufRead (storeSamples b l) x = wrap16 v := by
  induction l generalizing b with
  | nil => simp at hx
  | cons e l ih =>
    simp only [List.map_cons, List.nodup_cons] at hl
    rcases List.mem_cons.1 hx with rfl | hx
    · rw [storeSamples, bufRead_storeSamples_other (bufWf_write _ _ h), bufRead_write _ _ _ h, if_pos rfl]
      intro e he hc
      exact hl.1 (List.mem_map.2 ⟨e, he, hc⟩)
    · exact ih (bufWf_write _ _ h) hl.2 hx

theorem bufWf_mcStore {b : Buf} (dl : Bool) (pitch : Nat) (off : Int) (val : Nat → Nat → Int) (l : List (Nat × Nat))
    (h : bufWf b = true) : bufWf (mcStore dl pitch off val b l) = true := by
  induction l generalizing b with
  | nil => exact h
  | cons e l ih => exact ih (bufWf_write _ _ h)

/-- A prediction leaves every address outside its block. -/
theorem bufRead_mcStore_other {b : Buf} (dl : Bool) (pitch : Nat) (off : Int) (val : Nat → Nat → Int)
    {l : List (Nat × Nat)} {x : Nat} (h : bufWf b = true) (hx : ∀ e ∈ l, blockAddr off pitch e.1 e.2 ≠ x) :
    bufRead (mcStore dl pitch off val b l) x = bufRead b x := by
  induction l generalizing b with
  | nil => rfl
  | cons e l ih =>
    rw [mcStore, ih (bufWf_write _ _ h) fun e he => hx e (by simp [he]), bufRead_write _ _ _ h,
      if_neg fun hc => hx e (by simp) hc.symm]

/-- A predicted sample, where no two positions of the block have one address. -/
theorem bufRead_mcStore_mem {b : Buf} (dl : Bool) (pitch : Nat) (off : Int) (val : Nat → Nat → Int)
    {l : List (Nat × Nat)} {r c : Nat} (h : bufWf b = true)
    (hl : (l.map fun e => blockAddr off pitch e.1 e.2).Nodup) (hx : (r, c) ∈ l) :
    bufRead (mcStore dl pitch off val b l) (blockAddr off pitch r c)
      = wrap16 (if dl then (bufRead b (blockAddr off pitch r c)).toInt + val r c else val r c) := by
  induction l generalizing b with
  | nil => simp at hx
  | cons e l ih =>
    simp only [List.map_cons, List.nodup_cons] at hl
    rcases List.mem_cons.1 hx with rfl | hx
    · rw [mcStore, bufRead_mcStore_other _ _ _ _ (bufWf_write _ _ h), bufRead_write _ _ _ h, if_pos rfl]
      intro e he hc
      exact hl.1 (hc ▸ List.mem_map_of_mem (f := fun e : Nat × Nat => blockAddr off pitch e.1 e.2) he)
    · have hne : blockAddr off pitch r c ≠ blockAddr off pitch e.1 e.2 := by
        intro hc
        exact hl.1 (hc ▸ List.mem_map_of_mem (f := fun e : Nat × Nat => blockAddr off pitch e.1 e.2) hx)
      rw [mcStore, ih (bufWf_write _ _ h) hl.2 hx, bufRead_write _ _ _ h, if_neg hne]

theorem bufWf_copySamples {src b : Buf} (l : List Nat) (h : bufWf b = true) : bufWf (copySamples src b l) = true := by
  induction l generalizing b with
  | nil => exact h
  | cons a l ih => exact ih (bufWf_write _ _ h)

theorem bufRead_copySamples {src b : Buf} (l : List Nat) (x : Nat) (h : bufWf b = true) :
    bufRead (copySamples src b l) x = if x ∈ l then bufRead src x else bufRead b x := by
  induction l generalizing b with
  | nil => simp [copySamples]
  | cons a l ih =>
    rw [copySamples, ih (bufWf_write _ _ h), bufRead_write _ _ _ h]
    by_cases h1 : x ∈ l <;> by_cases h2 : x = a <;> simp [h1, h2]

theorem cellsSorted_storeBytes {c : List Host.Cell} (l : List (Nat × Byte)) (h : cellsSorted c = true) :
    cellsSorted (storeBytes c l) = true := by
  induction l generalizing c with
  | nil => exact h
  | cons e l ih => exact ih (cellsSorted_insert _ _ h)

/-- Bytes not named by a list of writes keep their value. -/
theorem lookup_storeBytes_other {c : List Host.Cell} {l : List (Nat × Byte)} {x : Nat} (hx : ∀ e ∈ l, e.1 ≠ x) :
    cellsLookup (storeBytes c l) x = cellsLookup c x := by
  induction l generalizing c with
  | nil => rfl
  | cons e l ih =>
    rw [storeBytes, ih fun e he => hx e (by simp [he]), cellsLookup_insert, if_neg fun hc => hx e (by simp) hc.symm]

/-- A written byte reads back, where no two writes name one address. -/
theorem lookup_storeBytes_mem {c : List Host.Cell} {l : List (Nat × Byte)} {x : Nat} {v : Byte}
    (hl : (l.map Prod.fst).Nodup) (hx : (x, v) ∈ l) : cellsLookup (storeBytes c l) x = some v := by
  induction l generalizing c with
  | nil => simp at hx
  | cons e l ih =>
    simp only [List.map_cons, List.nodup_cons] at hl
    rcases List.mem_cons.1 hx with rfl | hx
    · rw [storeBytes, lookup_storeBytes_other, cellsLookup_insert, if_pos rfl]
      intro e he hc
      exact hl.1 (List.mem_map.2 ⟨e, he, hc⟩)
    · exact ih hl.2 hx

/-! ### Memory -/

theorem Memory.wf_iff {m : Memory} : m.wf = true ↔
    cellsSorted m.arena = true ∧ (∀ e ∈ m.arena, bufWf e.2 = true) ∧ ∀ c ∈ m.out.toList, cellsSorted c = true := by
  simp only [Memory.wf, Bool.and_eq_true, List.all_eq_true, and_assoc]

/-- Every buffer of a canonical memory is canonical. -/
theorem State.bufWf_bufferOf {s : State} (h : s.mem.wf = true) (p b k : Nat) : bufWf (s.bufferOf p b k) = true := by
  simp only [State.bufferOf, State.buffer?]
  split_ifs
  · cases hl : cellsLookup s.mem.arena (bufKey p b k) with
    | none => rfl
    | some v => exact (Memory.wf_iff.1 h).2.1 _ (cellsLookup_mem hl)
  · rfl

/-- Every output plane of a canonical memory is canonical. -/
theorem State.sorted_outPlane {s : State} (h : s.mem.wf = true) (t : Fin 3) : cellsSorted (s.outPlane t) = true :=
  (Memory.wf_iff.1 h).2.2 _ (by simp [State.outPlane])

/-- Writing a buffer keeps the canonical form. -/
theorem State.wf_setBuffer {s : State} (p b k : Nat) {buf : Buf} (h : s.mem.wf = true) (hb : bufWf buf = true) :
    (s.setBuffer p b k buf).mem.wf = true := by
  obtain ⟨h1, h2, h3⟩ := Memory.wf_iff.1 h
  refine Memory.wf_iff.2 ⟨?_, ?_, h3⟩
  · show cellsSorted (if s.hasBuffer p b k = true then _ else _) = true
    split_ifs
    · exact cellsSorted_insert _ _ h1
    · exact h1
  · show ∀ e ∈ (if s.hasBuffer p b k = true then cellsInsert s.mem.arena (bufKey p b k) buf else s.mem.arena), bufWf e.2 = true
    split_ifs
    · intro e he
      rcases cellsInsert_mem he with rfl | he
      · exact hb
      · exact h2 e he
    · exact h2

/-- Writing an output plane keeps the canonical form. -/
theorem State.wf_setOut {s : State} (t : Fin 3) {c : List Host.Cell} (h : s.mem.wf = true)
    (hc : cellsSorted c = true) : (s.setOut t c).mem.wf = true := by
  obtain ⟨h1, h2, h3⟩ := Memory.wf_iff.1 h
  refine Memory.wf_iff.2 ⟨h1, h2, fun x hx => ?_⟩
  simp only [State.setOut_mem, Vector.mem_toList_iff] at hx h3
  rcases Vector.mem_or_eq_of_mem_set hx with hx | rfl
  · exact h3 x hx
  · exact hc

theorem bufKey_inj {p b k p' b' k' : Nat} (hb : b < 8) (hk : k < 4) (hb' : b' < 8) (hk' : k' < 4) :
    bufKey p b k = bufKey p' b' k' ↔ p = p' ∧ b = b' ∧ k = k' := by
  simp only [bufKey]; omega

/-- What each buffer is after one of them was written. -/
theorem State.buffer_setBuffer (s : State) (p b k p' b' k' : Nat) (buf : Buf) :
    (s.setBuffer p b k buf).buffer? p' b' k'
      = if (p' = p ∧ b' = b ∧ k' = k) ∧ s.hasBuffer p b k = true then some buf else s.buffer? p' b' k' := by
  by_cases he : s.hasBuffer p b k = true
  · have hk : b < 8 ∧ k < 4 := by
      by_contra hc
      rw [State.hasBuffer, State.buffer?, if_neg hc] at he
      simp at he
    have ha : (s.setBuffer p b k buf).mem.arena = cellsInsert s.mem.arena (bufKey p b k) buf := by
      show (if s.hasBuffer p b k = true then _ else _) = _
      rw [if_pos he]
    simp only [State.buffer?, ha, he, and_true]
    by_cases hk' : b' < 8 ∧ k' < 4
    · rw [if_pos hk', if_pos hk', cellsLookup_insert]
      simp only [bufKey_inj hk'.1 hk'.2 hk.1 hk.2]
    · rw [if_neg hk', if_neg hk', if_neg]
      rintro ⟨-, rfl, rfl⟩
      exact hk' hk
  · have ha : (s.setBuffer p b k buf).mem.arena = s.mem.arena := by
      show (if s.hasBuffer p b k = true then _ else _) = _
      rw [if_neg he]
    simp only [State.buffer?, ha, he, and_false, if_neg, Bool.false_eq_true, not_false_eq_true]

theorem State.hasBuffer_setBuffer (s : State) (p b k p' b' k' : Nat) (buf : Buf) :
    (s.setBuffer p b k buf).hasBuffer p' b' k' = s.hasBuffer p' b' k' := by
  rw [State.hasBuffer, State.buffer_setBuffer]
  split_ifs with h
  · obtain ⟨⟨rfl, rfl, rfl⟩, h⟩ := h
    exact h.symm
  · rfl

theorem State.bufferOf_setBuffer (s : State) (p b k p' b' k' : Nat) (buf : Buf) :
    (s.setBuffer p b k buf).bufferOf p' b' k'
      = if (p' = p ∧ b' = b ∧ k' = k) ∧ s.hasBuffer p b k = true then buf else s.bufferOf p' b' k' := by
  simp only [State.bufferOf, State.buffer_setBuffer]
  split_ifs <;> rfl

/-- What each sample is after a buffer was written. -/
theorem State.sample_setBuffer (s : State) (p b k p' b' k' off : Nat) (buf : Buf) :
    (s.setBuffer p b k buf).sample p' b' k' off
      = if (p' = p ∧ b' = b ∧ k' = k) ∧ s.hasBuffer p b k = true then bufRead buf off
        else s.sample p' b' k' off := by
  simp only [State.sample, State.bufferOf_setBuffer]
  split_ifs <;> rfl

theorem State.outByte_setOut (s : State) (t t' : Fin 3) (c : List Host.Cell) (a : Nat) :
    (s.setOut t c).outByte t' a = if t' = t then cellsLookup c a else s.outByte t' a := by
  simp only [State.outByte, State.outPlane, State.setOut_mem]
  by_cases h : t' = t
  · subst h; simp
  · rw [if_neg h]
    simp only [Fin.getElem_fin]
    rw [Vector.getElem_set_ne]
    exact fun hc => h (Fin.ext hc.symm)

/-- A kernel's stores keep the canonical form. -/
theorem State.wf_writeBlock {s : State} (d : Dst) (pitch n : Nat) (o : KernelOut) (h : s.mem.wf = true) :
    (s.writeBlock d pitch n o).mem.wf = true :=
  State.wf_setBuffer (s := s) _ _ _ h (bufWf_storeSamples _ (State.bufWf_bufferOf h _ _ _))

/-- A prediction keeps the canonical form. -/
theorem State.wf_mcWrite {s : State} (o : McOps) (n : Nat) (dl : Bool) (v : Nat → Nat → Int) (h : s.mem.wf = true) :
    (s.mcWrite o n dl v).mem.wf = true :=
  State.wf_setBuffer _ _ _ h (bufWf_mcStore _ _ _ _ _ (State.bufWf_bufferOf h _ _ _))

theorem sorted_flatMap_of_lt {β : Type} (f : β → List (Nat × α)) (l : List β) (lo hi : β → Nat)
    (hf : ∀ x ∈ l, cellsSorted (f x) = true ∧ ∀ c ∈ f x, lo x ≤ c.1 ∧ c.1 < hi x)
    (hl : l.Pairwise fun x y => hi x ≤ lo y) : cellsSorted (l.flatMap f) = true := by
  induction l with
  | nil => rfl
  | cons x l ih =>
    have happ : ∀ (u w : List (Nat × α)), cellsSorted u = true → cellsSorted w = true →
        (∀ c ∈ u, ∀ d ∈ w, c.1 < d.1) → cellsSorted (u ++ w) = true := by
      intro u w hu hw huw
      induction u with
      | nil => exact hw
      | cons c u ihu =>
        have hc := cellsSorted_cons.1 hu
        refine cellsSorted_cons.2 ⟨fun d hd => ?_, ihu hc.2 fun c' hc' => huw c' (by simp [hc'])⟩
        rcases List.mem_append.1 hd with hd | hd
        · exact hc.1 d hd
        · exact huw c (by simp) d hd
    rw [List.flatMap_cons]
    rw [List.pairwise_cons] at hl
    refine happ _ _ (hf x (by simp)).1 (ih (fun y hy => hf y (by simp [hy])) hl.2) fun c hc d hd => ?_
    obtain ⟨y, hy, hd⟩ := List.mem_flatMap.1 hd
    have h1 := ((hf x (by simp)).2 c hc).2
    have h2 := ((hf y (by simp [hy])).2 d hd).1
    have h3 := hl.1 y hy
    omega

/-- The arena of a configuration of at most 8 bands a plane is in canonical form, and every buffer of it is zero-filled
(R84). -/
theorem freshArena_wf (codec : Codec) (cfg : PicConf) :
    cellsSorted (freshArena codec cfg) = true ∧ ∀ e ∈ freshArena codec cfg, e.2 = [] := by
  have hb : ∀ p, cfg.numBands p < 8 := by
    intro p
    simp only [PicConf.numBands]
    split_ifs <;> omega
  have inner : ∀ p b, cellsSorted
        (((List.range 4).filter fun k => bufferExists codec cfg k).map fun k => (bufKey p b k, ([] : Buf))) = true
      ∧ ∀ c ∈ ((List.range 4).filter fun k => bufferExists codec cfg k).map fun k => (bufKey p b k, ([] : Buf)),
        bufKey p b 0 ≤ c.1 ∧ c.1 < bufKey p b 4 ∧ c.2 = [] := by
    intro p b
    have hr : (List.range 4) = [0, 1, 2, 3] := rfl
    rw [hr]
    simp only [bufKey]
    cases h0 : bufferExists codec cfg 0 <;> cases h1 : bufferExists codec cfg 1 <;>
      cases h2 : bufferExists codec cfg 2 <;> cases h3 : bufferExists codec cfg 3 <;>
      simp [List.filter, cellsSorted, h0, h1, h2, h3]
  refine ⟨?_, ?_⟩
  · refine sorted_flatMap_of_lt _ _ (fun p => bufKey p 0 0) (fun p => bufKey (p + 1) 0 0) (fun p _ => ⟨?_, ?_⟩) ?_
    · refine sorted_flatMap_of_lt _ _ (fun b => bufKey p b 0) (fun b => bufKey p b 4)
        (fun b _ => ⟨(inner p b).1, fun c hc => ⟨((inner p b).2 c hc).1, ((inner p b).2 c hc).2.1⟩⟩) ?_
      exact (List.pairwise_lt_range).imp fun h => by simp only [bufKey]; omega
    · intro c hc
      obtain ⟨b, hb', hc⟩ := List.mem_flatMap.1 hc
      have := (inner p b).2 c hc
      have := hb p
      have := List.mem_range.1 hb'
      simp only [bufKey] at *
      omega
    · exact (List.pairwise_lt_range).imp fun h => by simp only [bufKey]; omega
  · intro e he
    obtain ⟨p, -, he⟩ := List.mem_flatMap.1 he
    obtain ⟨b, -, he⟩ := List.mem_flatMap.1 he
    exact ((inner p b).2 e he).2.2

/-- Allocation keeps the canonical form. -/
theorem State.wf_allocate {s : State} (c : PicConf) (h : s.mem.wf = true) : (s.allocate c).mem.wf = true := by
  have hf := freshArena_wf s.params.codec c
  exact Memory.wf_iff.2 ⟨hf.1, fun e he => by rw [hf.2 e he]; rfl, (Memory.wf_iff.1 h).2.2⟩

/-- So does an allocation that fails. -/
theorem State.wf_deallocate {s : State} (h : s.mem.wf = true) : s.deallocate.mem.wf = true :=
  Memory.wf_iff.2 ⟨rfl, by simp [State.deallocate], (Memory.wf_iff.1 h).2.2⟩

/-- RESET's memory is in canonical form. -/
theorem Memory.wf_empty : Memory.empty.wf = true := by decide

/-- The memory at reset is in canonical form. -/
theorem State.wf_reset : State.reset.mem.wf = true := Memory.wf_empty

end Sys2Proof.Machine
end

