-- ==== Sys2Proof/Laws/Ops.lean ====
section
/-! SUPPORT. One lemma per shared operation that says what it can answer, and the equations that run a program forward. -/

namespace Sys2Proof.Machine

variable {α β : Type}

/-! ### Running a program forward -/

theorem M.bind_apply (m : M α) (f : α → M β) (s : State) :
    (m >>= f) s = match m s with
      | .ok a s' => f a s'
      | .error e s' => .error e s' := by
  show EStateM.bind m f s = _
  unfold EStateM.bind
  cases m s <;> rfl

theorem M.bind_ok {m : M α} {f : α → M β} {s s' : State} {a : α} (h : m s = .ok a s') : (m >>= f) s = f a s' := by
  rw [M.bind_apply, h]

theorem M.bind_error {m : M α} {f : α → M β} {s s' : State} {e : ErrKind} (h : m s = .error e s') :
    (m >>= f) s = .error e s' := by
  rw [M.bind_apply, h]

@[simp] theorem M.pure_apply (a : α) (s : State) : (pure a : M α) s = .ok a s := rfl

@[simp] theorem raise_apply (e : ErrKind) (s : State) : (raise e : M α) s = .error e s := rfl

@[simp] theorem done_apply (s : State) : done s = .ok () s := rfl

@[simp] theorem update_apply (f : State → State) (s : State) : update f s = .ok () (f s) := rfl

@[simp] theorem look_apply (f : State → α) (s : State) : look f s = .ok (f s) s := rfl

@[simp] theorem raiseIf_false (e : ErrKind) (s : State) : raiseIf false e s = .ok () s := rfl

@[simp] theorem raiseIf_true (e : ErrKind) (s : State) : raiseIf true e s = .error e s := rfl

@[simp] theorem need_some (e : ErrKind) (a : α) (s : State) : need e (some a) s = .ok a s := rfl

@[simp] theorem need_none (e : ErrKind) (s : State) : need e (none : Option α) s = .error e s := rfl

@[simp] theorem setRes_apply (v : BitVec 64) (s : State) : setRes v s = .ok () { s with res := v } := rfl

/-- A program that completes ends in the second step of it that completes. -/
theorem M.bind_eq_ok {m : M α} {f : α → M β} {s s'' : State} {b : β} (h : (m >>= f) s = .ok b s'') :
    ∃ a s', m s = .ok a s' ∧ f a s' = .ok b s'' := by
  rw [M.bind_apply] at h
  cases hm : m s with
  | ok a s' => rw [hm] at h; exact ⟨a, s', rfl, h⟩
  | error e s' => rw [hm] at h; exact absurd h (by simp)

/-- A program that raises does so in its first part or its second. -/
theorem M.bind_eq_error {m : M α} {f : α → M β} {s s'' : State} {e : ErrKind} (h : (m >>= f) s = .error e s'') :
    m s = .error e s'' ∨ ∃ a s', m s = .ok a s' ∧ f a s' = .error e s'' := by
  rw [M.bind_apply] at h
  cases hm : m s with
  | ok a s' => rw [hm] at h; exact .inr ⟨a, s', rfl, h⟩
  | error e' s' => rw [hm] at h; cases h; exact .inl rfl

/-! ### Reading bits -/

/-- `Read(n)` either reads, moving the cursor within the padding, or raises and changes nothing. -/
theorem readBits_cases (n : Nat) (s : State) :
    (s.bound = true ∧ s.avail n = true ∧ readBits n s = .ok (s.peek n) ((s.looked n).moved n)) ∨
    (s.bound = true ∧ s.avail n = false ∧ readBits n s = .error .brOverrun s) ∨
    (s.bound = false ∧ readBits n s = .error .badState s) := by
  unfold readBits State.readError
  cases hb : s.bound <;> cases ha : s.avail n <;> simp

theorem showBits_cases (n : Nat) (s : State) :
    (s.bound = true ∧ s.avail n = true ∧ showBits n s = .ok (s.peek n) (s.looked n)) ∨
    (s.bound = true ∧ s.avail n = false ∧ showBits n s = .error .brOverrun s) ∨
    (s.bound = false ∧ showBits n s = .error .badState s) := by
  unfold showBits State.readError
  cases hb : s.bound <;> cases ha : s.avail n <;> simp

theorem skipBits_cases (n : Nat) (s : State) :
    (s.bound = true ∧ s.avail n = true ∧ skipBits n s = .ok () (s.moved n)) ∨
    (s.bound = true ∧ s.avail n = false ∧ skipBits n s = .error .brOverrun s) ∨
    (s.bound = false ∧ skipBits n s = .error .badState s) := by
  unfold skipBits State.readError
  cases hb : s.bound <;> cases ha : s.avail n <;> simp

theorem readBits_ok {n : Nat} {s : State} (hb : s.bound = true) (ha : s.avail n = true) :
    readBits n s = .ok (s.peek n) ((s.looked n).moved n) := by
  unfold readBits State.readError
  simp [hb, ha]

theorem showBits_ok {n : Nat} {s : State} (hb : s.bound = true) (ha : s.avail n = true) :
    showBits n s = .ok (s.peek n) (s.looked n) := by
  unfold showBits State.readError
  simp [hb, ha]

theorem skipBits_ok {n : Nat} {s : State} (hb : s.bound = true) (ha : s.avail n = true) :
    skipBits n s = .ok () (s.moved n) := by
  unfold skipBits State.readError
  simp [hb, ha]

theorem State.avail_iff {s : State} {n : Nat} :
    s.avail n = true ↔ s.br.index + n ≤ s.br.sizeBits + s.params.padBits := by
  simp [State.avail]

/-! ### Whole commands -/

/-- What a command does, by cases: an illegal field, a failed head check, a completed body, a raise. -/
theorem runCommand_cases (i : Instr) (check : State → Option ErrKind) (body : M Unit) (s : State) :
    (i.wellFormed = false ∧ runCommand i check body s = s.refuse .illegalCommand) ∨
    (i.wellFormed = true ∧ ∃ e, check s = some e ∧ runCommand i check body s = s.headError e) ∨
    (i.wellFormed = true ∧ check s = none ∧ ∃ s', body s = .ok () s' ∧ runCommand i check body s = s'.complete) ∨
    (i.wellFormed = true ∧ check s = none ∧ ∃ e s', body s = .error e s' ∧ runCommand i check body s = s'.raised e) := by
  unfold runCommand
  cases hw : i.wellFormed
  · exact .inl ⟨rfl, rfl⟩
  · cases hc : check s with
    | some e => exact .inr (.inl ⟨rfl, e, rfl, rfl⟩)
    | none =>
      cases hb : body s with
      | ok _ s' => exact .inr (.inr (.inl ⟨rfl, rfl, s', rfl, rfl⟩))
      | error e s' => exact .inr (.inr (.inr ⟨rfl, rfl, e, s', rfl, rfl⟩))

/-- A well-formed command whose head check passes and whose body completes. -/
theorem command_ok {i : Instr} {check : State → Option ErrKind} {body : M Unit} {s s' : State}
    (hw : i.wellFormed = true) (hc : check s = none) (hb : body s = .ok () s') :
    command i check body s = .next s'.complete := by
  simp [command, runCommand, hw, hc, hb]

/-- A well-formed command whose body raises. -/
theorem command_raises {i : Instr} {check : State → Option ErrKind} {body : M Unit} {s s' : State} {e : ErrKind}
    (hw : i.wellFormed = true) (hc : check s = none) (hb : body s = .error e s') :
    command i check body s = .next (s'.raised e) := by
  simp [command, runCommand, hw, hc, hb]

/-- A well-formed command whose head check fails. -/
theorem command_headError {i : Instr} {check : State → Option ErrKind} {body : M Unit} {s : State} {e : ErrKind}
    (hw : i.wellFormed = true) (hc : check s = some e) : command i check body s = .next (s.headError e) := by
  simp [command, runCommand, hw, hc]

/-- A command with an illegal field. -/
theorem command_illegal {i : Instr} {check : State → Option ErrKind} {body : M Unit} {s : State}
    (hw : i.wellFormed = false) : command i check body s = .next (s.refuse .illegalCommand) := by
  simp [command, runCommand, hw]

/-- The first error of a list of checks. -/
theorem firstError_eq_none {l : List (Bool × ErrKind)} : firstError l = none ↔ ∀ c ∈ l, c.1 = false := by
  induction l with
  | nil => simp [firstError]
  | cons c l ih => obtain ⟨b, e⟩ := c; cases b <;> simp [firstError, ih]

theorem orBadState_eq_none {b : Bool} : orBadState b = none ↔ b = true := by cases b <;> simp [orBadState]

/-- What INITPLANES can do. -/
theorem initPlanes_cases (cfg : PicConf) (s : State) :
    (configFits cfg = true ∧ initPlanes cfg s = .ok () (s.allocate cfg)) ∨
    (configFits cfg = false ∧ initPlanes cfg s = .error .allocFail s.deallocate) := by
  cases h : configFits cfg <;> simp [initPlanes, h]

/-- No band exists after an allocation that failed (45_frame_engine.md R313). -/
theorem State.deallocate_bandOpt (s : State) (p b : Nat) : s.deallocate.band? p b = none := by
  match p with
  | 0 | 1 | 2 => rfl
  | p + 3 => rfl

/-- Nor does a buffer. -/
theorem State.deallocate_bufferOpt (s : State) (p b k : Nat) : s.deallocate.buffer? p b k = none := by
  simp only [State.buffer?, State.deallocate]
  split <;> rfl

/-- The rotation keeps the destination apart from the references a frame uses (20_memory.md R93). -/
theorem Rotation.apart_dst_ne_ref (c : Codec) (r : Rotation) : (r.apart c).dstBuf ≠ (r.apart c).refBuf := by
  have h : ∀ a b : Fin 4, a ≠ freeIndex [a] b := by decide
  cases c <;> exact h _ _

/-- Under INDEO4 the backward reference is a third buffer. -/
theorem Rotation.apart_indeo4 (r : Rotation) :
    (r.apart .indeo4).dstBuf ≠ (r.apart .indeo4).bRefBuf ∧ (r.apart .indeo4).refBuf ≠ (r.apart .indeo4).bRefBuf := by
  have h : ∀ a b c : Fin 4, a ≠ freeIndex [a, b] c ∧ b ≠ freeIndex [a, b] c := by decide
  exact h _ _ _

/-- A rotation whose buffers are apart is kept as it is. -/
theorem Rotation.apart_of_ne (c : Codec) (r : Rotation) (h : r.dstBuf ≠ r.refBuf)
    (hb : c = .indeo4 → r.dstBuf ≠ r.bRefBuf ∧ r.refBuf ≠ r.bRefBuf) : r.apart c = r := by
  have h1 : ∀ a b : Fin 4, a ≠ b → freeIndex [a] b = b := by decide
  have h2 : ∀ a b c : Fin 4, a ≠ c → b ≠ c → freeIndex [a, b] c = c := by decide
  cases c
  · simp [Rotation.apart, h1 _ _ h, h2 _ _ _ (hb rfl).1 (hb rfl).2]
  · simp [Rotation.apart, h1 _ _ h]

/-- A predefined block table but the last is its descriptor's (41_vlc.md R182). -/
theorem predefBlkTables_get (p : Params) (i : Fin 8) (h : i ≠ 7) :
    (predefBlkTables p)[i] = predefTable p p.predefBlkDesc[i] := by
  have h7 : (7 : Nat) ≠ i.val := fun e => h (Fin.ext e.symm)
  simp [predefBlkTables, h7]

/-- The last predefined block table. -/
theorem predefBlkTables_last (p : Params) : (predefBlkTables p)[(7 : Fin 8)] = predefBlkLast p := by
  simp [predefBlkTables]

/-- What one step does: with no command nothing, else what the next command's word does to the state with its operand
record read. -/
theorem step_cases (s : State) :
    (s.port = [] ∧ step s = .next s) ∨
    ∃ c rest, s.port = c :: rest ∧
      ((∃ i, decode c.cw = .ok i ∧ step s = exec i { s with opr := c.opr, port := rest }) ∨
       (∃ e, decode c.cw = .error e ∧
          step s = .next (State.illegalWord { s with opr := c.opr, port := rest }))) := by
  unfold step State.nextCommand
  cases hp : s.port with
  | nil => exact .inl ⟨rfl, rfl⟩
  | cons c rest =>
    refine .inr ⟨c, rest, rfl, ?_⟩
    simp only [runWord]
    cases hd : decode c.cw with
    | ok i => exact .inl ⟨i, rfl, rfl⟩
    | error e => exact .inr ⟨e, rfl, rfl⟩

end Sys2Proof.Machine
end

