-- ==== Sys2Proof/Laws/Leads.lean ====
section
/-! SUPPORT. A relation between the state a program starts from and the one it leaves, whether it completes or raises, and
how the relation goes through each of the ways programs are put together. An invariant `P` is the relation
`fun s s' => P s → P s'`; a frame is an equation between fields of the two. -/

namespace Sys2Proof.Machine

variable {α β : Type}

/-- `m` leads from every state only to states related to it. -/
def Leads (R : State → State → Prop) (m : M α) : Prop :=
  ∀ s, (∀ a s', m s = .ok a s' → R s s') ∧ ∀ e s', m s = .error e s' → R s s'

/-- A relation every program that does nothing respects, and that chains. -/
structure Chains (R : State → State → Prop) : Prop where
  refl : ∀ s, R s s
  trans : ∀ {s t u}, R s t → R t u → R s u

theorem Chains.keep (P : State → Prop) : Chains fun s s' => P s → P s' := ⟨fun _ h => h, fun h1 h2 h => h2 (h1 h)⟩

theorem Chains.same {γ : Type} (f : State → γ) : Chains fun s s' => f s' = f s :=
  ⟨fun _ => rfl, fun h1 h2 => h2.trans h1⟩

variable {R : State → State → Prop}

theorem leads_pure (hR : Chains R) (a : α) : Leads R (pure a) := fun s =>
  ⟨fun _ _ h => by cases h; exact hR.refl s, fun _ _ h => by cases h⟩

theorem leads_done (hR : Chains R) : Leads R done := leads_pure hR ()

theorem leads_bind (hR : Chains R) {m : M α} {f : α → M β} (hm : Leads R m) (hf : ∀ a, Leads R (f a)) :
    Leads R (m >>= f) := by
  refine fun s => ⟨fun b s'' h => ?_, fun e s'' h => ?_⟩
  · obtain ⟨a, s', h1, h2⟩ := M.bind_eq_ok h
    exact hR.trans ((hm s).1 a s' h1) ((hf a s').1 b s'' h2)
  · rcases M.bind_eq_error h with h1 | ⟨a, s', h1, h2⟩
    · exact (hm s).2 e s'' h1
    · exact hR.trans ((hm s).1 a s' h1) ((hf a s').2 e s'' h2)

theorem leads_raise (hR : Chains R) (e : ErrKind) : Leads R (raise e : M α) := fun s =>
  ⟨fun _ _ h => (by cases h), fun _ _ h => by cases h; exact hR.refl s⟩

theorem leads_raiseIf (hR : Chains R) (b : Bool) (e : ErrKind) : Leads R (raiseIf b e) := by
  cases b
  · exact leads_pure hR ()
  · exact leads_raise hR e

theorem leads_look (hR : Chains R) (f : State → α) : Leads R (look f) := fun s =>
  ⟨fun _ _ h => by cases h; exact hR.refl s, fun _ _ h => by cases h⟩

theorem leads_update {f : State → State} (hf : ∀ s, R s (f s)) : Leads R (update f) := fun s =>
  ⟨fun _ _ h => by cases h; exact hf s, fun _ _ h => by cases h⟩

theorem leads_need (hR : Chains R) (e : ErrKind) (x : Option α) : Leads R (need e x) := by
  cases x
  · exact leads_raise hR e
  · exact leads_pure hR _

theorem leads_liftExcept (hR : Chains R) (x : Except ErrKind α) : Leads R (liftExcept x) := by
  cases x
  · exact leads_raise hR _
  · exact leads_pure hR _

theorem leads_forEach (hR : Chains R) {f : α → M Unit} (hf : ∀ a, Leads R (f a)) (l : List α) :
    Leads R (forEach f l) := by
  induction l with
  | nil => exact leads_done hR
  | cons a l ih => exact leads_bind hR (hf a) fun _ => ih

theorem leads_repeatWhile (hR : Chains R) {f : M Bool} (hf : Leads R f) (n : Nat) : Leads R (repeatWhile f n) := by
  induction n with
  | zero => exact leads_raise hR _
  | succ n ih =>
    refine leads_bind hR hf fun again => ?_
    cases again
    · exact leads_done hR
    · exact ih

/-- A program that looks at the state it starts from. -/
theorem leads_withState {f : State → M α} (hf : ∀ s, Leads R (f s)) : Leads R (fun s => f s s) := fun s => hf s s

theorem leads_readLoop (hR : Chains R) {f : M Bool} (hf : Leads R f) : Leads R (readLoop f) :=
  leads_withState (f := fun s => repeatWhile f s.loopFuel) fun _ => leads_repeatWhile hR hf _

theorem leads_finally (hR : Chains R) {m : M Unit} {after : State → State} (hm : Leads R m)
    (ha : ∀ s, R s (after s)) : Leads R (finally' m after) := by
  intro s
  unfold finally'
  cases hs : m s with
  | ok a s' =>
    exact ⟨fun _ _ h => by cases h; exact hR.trans ((hm s).1 _ _ hs) (ha s'), fun _ _ h => by cases h⟩
  | error e s' =>
    exact ⟨fun _ _ h => (by cases h), fun _ _ h => by cases h; exact hR.trans ((hm s).2 _ _ hs) (ha s')⟩

theorem leads_onError (hR : Chains R) {m : M α} {repair : State → State} (hm : Leads R m)
    (ha : ∀ s, R s (repair s)) : Leads R (onError m repair) := by
  intro s
  unfold onError
  cases hs : m s with
  | ok a s' => exact ⟨fun _ _ h => by cases h; exact (hm s).1 _ _ hs, fun _ _ h => by cases h⟩
  | error e s' =>
    exact ⟨fun _ _ h => (by cases h), fun _ _ h => by cases h; exact hR.trans ((hm s).2 _ _ hs) (ha s')⟩

/-- The cursor put back after a raise needs a step of its own. -/
theorem leads_keepingCursor {m : M α} (hm : Leads R m)
    (hk : ∀ s s', R s s' → R s { s' with br := { s'.br with index := s.br.index } }) :
    Leads R (keepingCursor m) := by
  intro s
  unfold keepingCursor
  cases hs : m s with
  | ok a s' => exact ⟨fun _ _ h => by cases h; exact (hm s).1 _ _ hs, fun _ _ h => by cases h⟩
  | error e s' =>
    exact ⟨fun _ _ h => (by cases h), fun _ _ h => by cases h; exact hk s s' ((hm s).2 _ _ hs)⟩

theorem leads_sub (hR : Chains R) {check : State → Option ErrKind} {body : M Unit} (hb : Leads R body) :
    Leads R (sub check body) := by
  intro s
  unfold sub
  cases hc : check s with
  | some e => exact ⟨fun _ _ h => (by cases h), fun _ _ h => by cases h; exact hR.refl s⟩
  | none => exact hb s

/-- A read of bits: looking draws, and the cursor moves within the padding. -/
theorem leads_readBits (hR : Chains R) (n : Nat) (h : ∀ s, s.avail n = true → R s ((s.looked n).moved n)) :
    Leads R (readBits n) := by
  intro s
  rcases readBits_cases n s with ⟨-, ha, hs⟩ | ⟨-, -, hs⟩ | ⟨-, hs⟩ <;> rw [hs]
  · exact ⟨fun _ _ e => by cases e; exact h s ha, fun _ _ e => by cases e⟩
  · exact ⟨fun _ _ e => (by cases e), fun _ _ e => by cases e; exact hR.refl s⟩
  · exact ⟨fun _ _ e => (by cases e), fun _ _ e => by cases e; exact hR.refl s⟩

theorem leads_skipBits (hR : Chains R) (n : Nat) (h : ∀ s, s.avail n = true → R s (s.moved n)) :
    Leads R (skipBits n) := by
  intro s
  rcases skipBits_cases n s with ⟨-, ha, hs⟩ | ⟨-, -, hs⟩ | ⟨-, hs⟩ <;> rw [hs]
  · exact ⟨fun _ _ e => by cases e; exact h s ha, fun _ _ e => by cases e⟩
  · exact ⟨fun _ _ e => (by cases e), fun _ _ e => by cases e; exact hR.refl s⟩
  · exact ⟨fun _ _ e => (by cases e), fun _ _ e => by cases e; exact hR.refl s⟩

/-- A whole command: its body's relation, through the writes of `STATUS.ERR` and `RES` that end it. -/
theorem leads_runCommand (hR : Chains R) {check : State → Option ErrKind} {body : M Unit} (hb : Leads R body)
    (hc : ∀ s, R s s.complete) (hr : ∀ e s, R s (State.raised e s)) (hf : ∀ e s, R s (State.refuse e s)) (i : Instr)
    (s : State) : R s (runCommand i check body s) := by
  rcases runCommand_cases i check body s with ⟨-, h⟩ | ⟨-, e, -, h⟩ | ⟨-, -, s', h1, h⟩ | ⟨-, -, e, s', h1, h⟩ <;>
    rw [h]
  · exact hf _ s
  · unfold State.headError
    split_ifs
    · exact hf e s
    · exact hr e s
  · exact hR.trans ((hb s).1 _ _ h1) (hc s')
  · exact hR.trans ((hb s).2 _ _ h1) (hr e s')

end Sys2Proof.Machine
end

