-- ==== Sys2Proof/Laws/PerInstr.lean ====
section
/-! SUPPORT. What holds of every command as syntax, one lemma for each constructor: its encoding fits the command word's
two parts, the 6 bits of the opcode and the 26 operand bits (30_encoding.md R100). -/

namespace Sys2Proof.Laws.EncodeFits

/-- The opcode of a command has 6 bits and its operand 26. -/
def Statement (i : Instr) : Prop := (encodeFields i).1 < 2 ^ 6 ∧ (encodeFields i).2 < 2 ^ 26

/-- The operand bits of a PB command fit. -/
theorem pb_fits (p b : BitVec 2) : encodePB p b < 2 ^ 26 := by
  have := p.isLt
  have := b.isLt
  simp only [encodePB]
  omega

/-- The operand bits of an MC command fit. -/
theorem mc_fits (t2 t : BitVec 2) (asd : Nat) (h : asd < 8) : encodeMC t2 t asd < 2 ^ 26 := by
  have := t2.isLt
  have := t.isLt
  simp only [encodeMC]
  omega

theorem getbits (n : BitVec 7) : Statement (.getbits n) := by
  have := n.isLt
  unfold Statement encodeFields
  constructor <;> dsimp only <;> omega

theorem getbitslong (n : BitVec 7) : Statement (.getbitslong n) := by
  have := n.isLt
  unfold Statement encodeFields
  constructor <;> dsimp only <;> omega

theorem getbits64 (n : BitVec 7) : Statement (.getbits64 n) := by
  have := n.isLt
  unfold Statement encodeFields
  constructor <;> dsimp only <;> omega

theorem getsbits (n : BitVec 7) : Statement (.getsbits n) := by
  have := n.isLt
  unfold Statement encodeFields
  constructor <;> dsimp only <;> omega

theorem getsbitslong (n : BitVec 7) : Statement (.getsbitslong n) := by
  have := n.isLt
  unfold Statement encodeFields
  constructor <;> dsimp only <;> omega

theorem showbits (n : BitVec 7) : Statement (.showbits n) := by
  have := n.isLt
  unfold Statement encodeFields
  constructor <;> dsimp only <;> omega

theorem showbitslong (n : BitVec 7) : Statement (.showbitslong n) := by
  have := n.isLt
  unfold Statement encodeFields
  constructor <;> dsimp only <;> omega

theorem skipbits (n : BitVec 7) : Statement (.skipbits n) := by
  have := n.isLt
  unfold Statement encodeFields
  constructor <;> dsimp only <;> omega

theorem skipbitslong (n : BitVec 7) : Statement (.skipbitslong n) := by
  have := n.isLt
  unfold Statement encodeFields
  constructor <;> dsimp only <;> omega

theorem align : Statement .align := by unfold Statement; decide

theorem getvlc2 (t : BitVec 6) (d : BitVec 2) (b : BitVec 5) : Statement (.getvlc2 t d b) := by
  have := t.isLt
  have := d.isLt
  have := b.isLt
  unfold Statement encodeFields
  constructor <;> dsimp only <;> omega

theorem bitscount : Statement .bitscount := by unfold Statement; decide

theorem bitsleft : Statement .bitsleft := by unfold Statement; decide

theorem huffbuild (t : BitVec 6) : Statement (.huffbuild t) := by
  have := t.isLt
  unfold Statement encodeFields
  constructor <;> dsimp only <;> omega

theorem initvlc (t : BitVec 6) : Statement (.initvlc t) := by
  have := t.isLt
  unfold Statement encodeFields
  constructor <;> dsimp only <;> omega

theorem dechuffdesc (t : BitVec 6) (w : BitVec 1) (c : BitVec 1) : Statement (.dechuffdesc t w c) := by
  have := t.isLt
  have := w.isLt
  have := c.isLt
  unfold Statement encodeFields
  constructor <;> dsimp only <;> omega

theorem haar8 : Statement .haar8 := by unfold Statement; decide

theorem haarrow8 : Statement .haarrow8 := by unfold Statement; decide

theorem haarcol8 : Statement .haarcol8 := by unfold Statement; decide

theorem slant8 : Statement .slant8 := by unfold Statement; decide

theorem slantrow8 : Statement .slantrow8 := by unfold Statement; decide

theorem slantcol8 : Statement .slantcol8 := by unfold Statement; decide

theorem copy8 : Statement .copy8 := by unfold Statement; decide

theorem haar4 : Statement .haar4 := by unfold Statement; decide

theorem haarrow4 : Statement .haarrow4 := by unfold Statement; decide

theorem haarcol4 : Statement .haarcol4 := by unfold Statement; decide

theorem slant4 : Statement .slant4 := by unfold Statement; decide

theorem slantrow4 : Statement .slantrow4 := by unfold Statement; decide

theorem slantcol4 : Statement .slantcol4 := by unfold Statement; decide

theorem dchaar8 : Statement .dchaar8 := by unfold Statement; decide

theorem dchaar4 : Statement .dchaar4 := by unfold Statement; decide

theorem dcslant8 : Statement .dcslant8 := by unfold Statement; decide

theorem dcslant4 : Statement .dcslant4 := by unfold Statement; decide

theorem dcrowslant8 : Statement .dcrowslant8 := by unfold Statement; decide

theorem dcrowslant4 : Statement .dcrowslant4 := by unfold Statement; decide

theorem dccolslant8 : Statement .dccolslant8 := by unfold Statement; decide

theorem dccolslant4 : Statement .dccolslant4 := by unfold Statement; decide

theorem dccopy8 : Statement .dccopy8 := by unfold Statement; decide

theorem mc8nd (t : BitVec 2) : Statement (.mc8nd t) := ⟨by simp [encodeFields], mc_fits 0 t _ (by decide)⟩

theorem mc8d (t : BitVec 2) : Statement (.mc8d t) := ⟨by simp [encodeFields], mc_fits 0 t _ (by decide)⟩

theorem mc4nd (t : BitVec 2) : Statement (.mc4nd t) := ⟨by simp [encodeFields], mc_fits 0 t _ (by decide)⟩

theorem mc4d (t : BitVec 2) : Statement (.mc4d t) := ⟨by simp [encodeFields], mc_fits 0 t _ (by decide)⟩

theorem mcavg8nd (t : BitVec 2) (t2 : BitVec 2) : Statement (.mcavg8nd t t2) := ⟨by simp [encodeFields], mc_fits t2 t _ (by decide)⟩

theorem mcavg8d (t : BitVec 2) (t2 : BitVec 2) : Statement (.mcavg8d t t2) := ⟨by simp [encodeFields], mc_fits t2 t _ (by decide)⟩

theorem mcavg4nd (t : BitVec 2) (t2 : BitVec 2) : Statement (.mcavg4nd t t2) := ⟨by simp [encodeFields], mc_fits t2 t _ (by decide)⟩

theorem mcavg4d (t : BitVec 2) (t2 : BitVec 2) : Statement (.mcavg4d t t2) := ⟨by simp [encodeFields], mc_fits t2 t _ (by decide)⟩

theorem dequant : Statement .dequant := by unfold Statement; decide

theorem decblk (p : BitVec 2) (b : BitVec 2) : Statement (.decblk p b) := ⟨by simp [encodeFields], pb_fits p b⟩

theorem dcblk (p : BitVec 2) (b : BitVec 2) : Statement (.dcblk p b) := ⟨by simp [encodeFields], pb_fits p b⟩

theorem dectileblks (p : BitVec 2) (b : BitVec 2) : Statement (.dectileblks p b) := ⟨by simp [encodeFields], pb_fits p b⟩

theorem emptytile (p : BitVec 2) (b : BitVec 2) : Statement (.emptytile p b) := ⟨by simp [encodeFields], pb_fits p b⟩

theorem decmbinfo (p : BitVec 2) (b : BitVec 2) : Statement (.decmbinfo p b) := ⟨by simp [encodeFields], pb_fits p b⟩

theorem decband (p : BitVec 2) (b : BitVec 2) : Statement (.decband p b) := ⟨by simp [encodeFields], pb_fits p b⟩

theorem tilesize : Statement .tilesize := by unfold Statement; decide

theorem decframe : Statement .decframe := by unfold Statement; decide

theorem pichdr : Statement .pichdr := by unfold Statement; decide

theorem initplanes : Statement .initplanes := by unfold Statement; decide

theorem inittiles : Statement .inittiles := by unfold Statement; decide

theorem switchbuf : Statement .switchbuf := by unfold Statement; decide

theorem recomphaar : Statement .recomphaar := by unfold Statement; decide

theorem recomp53 : Statement .recomp53 := by unfold Statement; decide

theorem outplane (p : BitVec 2) (b : BitVec 2) : Statement (.outplane p b) := ⟨by simp [encodeFields], pb_fits p b⟩

theorem bandhdr (p : BitVec 2) (b : BitVec 2) : Statement (.bandhdr p b) := ⟨by simp [encodeFields], pb_fits p b⟩

theorem gophdr : Statement .gophdr := by unfold Statement; decide

theorem reset : Statement .reset := by unfold Statement; decide

end Sys2Proof.Laws.EncodeFits
end

