-- ==== Sys2Proof/Tests/Slice0.lean ====
section
/-! SUPPORT. Our own tests: ill-formed commands refused, command words written out from 30_encoding.md, single steps, and for
every obligation with hypotheses a concrete state and operands that meet them. -/

namespace Sys2Proof.Tests

open Sys2Proof Sys2Proof.Machine Sys2Proof.Claims

/-! ### WellFormed: one ill-formed command for each check (30_encoding.md R105 to R108; 45_frame_engine.md R380) -/

theorem test_illFormed_bits_1_to_25 :
    (Instr.getbits 0).wellFormed = false ∧ (Instr.getbits 26).wellFormed = false ∧ (Instr.getsbits 0).wellFormed = false ∧
    (Instr.getsbits 26).wellFormed = false ∧ (Instr.showbits 0).wellFormed = false ∧
    (Instr.showbits 26).wellFormed = false := by decide

theorem test_illFormed_bits_long :
    (Instr.getbitslong 33).wellFormed = false ∧ (Instr.getsbitslong 33).wellFormed = false ∧
    (Instr.showbitslong 33).wellFormed = false ∧ (Instr.getbits64 65).wellFormed = false := by decide

theorem test_illFormed_getvlc2 :
    (Instr.getvlc2 18 1 13).wellFormed = false ∧ (Instr.getvlc2 31 1 13).wellFormed = false ∧
    (Instr.getvlc2 44 1 13).wellFormed = false ∧ (Instr.getvlc2 49 1 13).wellFormed = false ∧
    (Instr.getvlc2 8 0 13).wellFormed = false ∧ (Instr.getvlc2 8 1 0).wellFormed = false ∧
    (Instr.getvlc2 8 1 31).wellFormed = false := by decide

theorem test_illFormed_huffman_slots :
    (Instr.huffbuild 47).wellFormed = false ∧ (Instr.initvlc 0).wellFormed = false ∧
    (Instr.dechuffdesc 15 0 1).wellFormed = false ∧ (Instr.dechuffdesc 18 0 1).wellFormed = false ∧
    (Instr.dechuffdesc 31 0 1).wellFormed = false ∧ (Instr.dechuffdesc 48 0 1).wellFormed = false := by decide

theorem test_illFormed_plane :
    (Instr.decblk 3 0).wellFormed = false ∧ (Instr.dcblk 3 0).wellFormed = false ∧
    (Instr.dectileblks 3 0).wellFormed = false ∧ (Instr.emptytile 3 0).wellFormed = false ∧
    (Instr.decmbinfo 3 0).wellFormed = false ∧ (Instr.decband 3 0).wellFormed = false ∧
    (Instr.bandhdr 3 0).wellFormed = false ∧ (Instr.outplane 3 0).wellFormed = false ∧
    (Instr.outplane 0 1).wellFormed = false := by decide

/-! ### Command words, written out bit by bit from R101 to R103 and R109 -/

theorem test_decode_bit_count :
    decode 0b000001_0000000000000000000_0011001 = .ok (.getbits 25) ∧
    decode 0b000010_0000000000000000000_0100000 = .ok (.getbitslong 32) ∧
    decode 0b000011_0000000000000000000_1000000 = .ok (.getbits64 64) ∧
    decode 0b000100_0000000000000000000_0000001 = .ok (.getsbits 1) ∧
    decode 0b000101_0000000000000000000_0000000 = .ok (.getsbitslong 0) ∧
    decode 0b000110_0000000000000000000_0001001 = .ok (.showbits 9) ∧
    decode 0b000111_0000000000000000000_0011111 = .ok (.showbitslong 31) ∧
    decode 0b001000_0000000000000000000_1111111 = .ok (.skipbits 127) ∧
    decode 0b001001_0000000000000000000_1100100 = .ok (.skipbitslong 100) := by decide

theorem test_decode_no_operand :
    decode 0b001010_00000000000000000000000000 = .ok .align ∧
    decode 0b001100_00000000000000000000000000 = .ok .bitscount ∧
    decode 0b001101_00000000000000000000000000 = .ok .bitsleft ∧
    decode 0b101000_00000000000000000000000000 = .ok .dequant ∧
    decode 0b101111_00000000000000000000000000 = .ok .tilesize ∧
    decode 0b110000_00000000000000000000000000 = .ok .decframe ∧
    decode 0b110001_00000000000000000000000000 = .ok .pichdr ∧
    decode 0b110010_00000000000000000000000000 = .ok .initplanes ∧
    decode 0b110011_00000000000000000000000000 = .ok .inittiles ∧
    decode 0b110100_00000000000000000000000000 = .ok .switchbuf ∧
    decode 0b110101_00000000000000000000000000 = .ok .recomphaar ∧
    decode 0b110110_00000000000000000000000000 = .ok .recomp53 ∧
    decode 0b111001_00000000000000000000000000 = .ok .gophdr ∧
    decode 0b111111_00000000000000000000000000 = .ok .reset := by decide

theorem test_decode_vlc :
    decode 0b001011_101011_00_11_00000000000_11110 = .ok (.getvlc2 43 3 30) ∧
    decode 0b010000_110000_00000000000000000000 = .ok (.huffbuild 48) ∧
    decode 0b010001_110000_00000000000000000000 = .ok (.initvlc 48) ∧
    decode 0b010010_100101_000000000000000000_1_0 = .ok (.dechuffdesc 37 1 0) ∧
    decode 0b010010_010000_000000000000000000_0_1 = .ok (.dechuffdesc 16 0 1) := by decide

theorem test_decode_inverse_transform :
    decode 0b011000_0000000000000000000000_0_000 = .ok .haar8 ∧
    decode 0b011000_0000000000000000000000_0_001 = .ok .haarrow8 ∧
    decode 0b011000_0000000000000000000000_0_010 = .ok .haarcol8 ∧
    decode 0b011000_0000000000000000000000_0_011 = .ok .slant8 ∧
    decode 0b011000_0000000000000000000000_0_100 = .ok .slantrow8 ∧
    decode 0b011000_0000000000000000000000_0_101 = .ok .slantcol8 ∧
    decode 0b011000_0000000000000000000000_0_110 = .ok .copy8 ∧
    decode 0b011000_0000000000000000000000_1_000 = .ok .haar4 ∧
    decode 0b011000_0000000000000000000000_1_001 = .ok .haarrow4 ∧
    decode 0b011000_0000000000000000000000_1_010 = .ok .haarcol4 ∧
    decode 0b011000_0000000000000000000000_1_011 = .ok .slant4 ∧
    decode 0b011000_0000000000000000000000_1_100 = .ok .slantrow4 ∧
    decode 0b011000_0000000000000000000000_1_101 = .ok .slantcol4 := by decide

theorem test_decode_dc_transform :
    decode 0b011001_0000000000000000000000_0_000 = .ok .dchaar8 ∧
    decode 0b011001_0000000000000000000000_1_000 = .ok .dchaar4 ∧
    decode 0b011001_0000000000000000000000_0_011 = .ok .dcslant8 ∧
    decode 0b011001_0000000000000000000000_1_011 = .ok .dcslant4 ∧
    decode 0b011001_0000000000000000000000_0_100 = .ok .dcrowslant8 ∧
    decode 0b011001_0000000000000000000000_1_100 = .ok .dcrowslant4 ∧
    decode 0b011001_0000000000000000000000_0_101 = .ok .dccolslant8 ∧
    decode 0b011001_0000000000000000000000_1_101 = .ok .dccolslant4 ∧
    decode 0b011001_0000000000000000000000_0_110 = .ok .dccopy8 := by decide

theorem test_decode_prediction :
    decode 0b100000_0000000000000000000_00_01_0_0_0 = .ok (.mc8nd 1) ∧
    decode 0b100000_0000000000000000000_00_10_0_1_0 = .ok (.mc8d 2) ∧
    decode 0b100000_0000000000000000000_00_11_0_0_1 = .ok (.mc4nd 3) ∧
    decode 0b100000_0000000000000000000_00_00_0_1_1 = .ok (.mc4d 0) ∧
    decode 0b100000_0000000000000000000_10_01_1_0_0 = .ok (.mcavg8nd 1 2) ∧
    decode 0b100000_0000000000000000000_00_11_1_1_0 = .ok (.mcavg8d 3 0) ∧
    decode 0b100000_0000000000000000000_11_00_1_0_1 = .ok (.mcavg4nd 0 3) ∧
    decode 0b100000_0000000000000000000_01_10_1_1_1 = .ok (.mcavg4d 2 1) := by decide

theorem test_decode_plane_band :
    decode 0b101001_10_01_0000000000000000000000 = .ok (.decblk 2 1) ∧
    decode 0b101010_00_11_0000000000000000000000 = .ok (.dcblk 0 3) ∧
    decode 0b101011_01_00_0000000000000000000000 = .ok (.dectileblks 1 0) ∧
    decode 0b101100_00_10_0000000000000000000000 = .ok (.emptytile 0 2) ∧
    decode 0b101101_10_11_0000000000000000000000 = .ok (.decmbinfo 2 3) ∧
    decode 0b101110_00_01_0000000000000000000000 = .ok (.decband 0 1) ∧
    decode 0b110111_01_00_0000000000000000000000 = .ok (.outplane 1 0) ∧
    decode 0b111000_01_10_0000000000000000000000 = .ok (.bandhdr 1 2) := by decide

/-- Reserved opcodes, reserved bits and reserved sub-encodings (R102, R103, R104, R108). -/
theorem test_decode_refuses :
    decode 0 = .error .reservedOpcode ∧ decode 0b111110_00000000000000000000000000 = .error .reservedOpcode ∧
    decode 0b000001_0000000000000000001_0011001 = .error .reservedBits ∧
    decode 0b001010_00000000000000000000000001 = .error .reservedBits ∧
    decode 0b001011_001000_01_01_00000000000_01101 = .error .reservedBits ∧
    decode 0b001011_001000_00_01_00000000001_01101 = .error .reservedBits ∧
    decode 0b010000_110000_00000000000000000001 = .error .reservedBits ∧
    decode 0b010010_010000_000000000000000001_0_1 = .error .reservedBits ∧
    decode 0b101001_00_00_0000000000000000000001 = .error .reservedBits ∧
    decode 0b011000_0000000000000000000001_0_000 = .error .reservedBits ∧
    decode 0b011000_0000000000000000000000_0_111 = .error .reservedForm ∧
    decode 0b011000_0000000000000000000000_1_110 = .error .reservedForm ∧
    decode 0b011001_0000000000000000000000_0_001 = .error .reservedForm ∧
    decode 0b011001_0000000000000000000000_1_110 = .error .reservedForm ∧
    decode 0b100000_0000000000000000000_01_00_0_0_0 = .error .reservedForm ∧
    decode 0b100000_0000000000000000001_00_00_0_0_0 = .error .reservedBits := by decide

/-! ### Small states -/

/-- Fields packed from the first bit of a stream on: (value, width). -/
def pack : List (Nat × Nat) → Nat
  | [] => 0
  | (v, w) :: rest => v + 2 ^ w * pack rest

/-- A chunk of `n` bytes. -/
def chunk (n : Nat) (fields : List (Nat × Nat)) : List Byte :=
  (List.range n).map fun i => BitVec.ofNat 8 (pack fields / 2 ^ (8 * i))

def p4 : Params := defaultParams

def p5 : Params := { defaultParams with codec := .indeo5 }

/-- A state with a chunk bound. -/
def bound (p : Params) (n : Nat) (fields : List (Nat × Nat)) : State :=
  { State.resetWith p with br := ⟨some (chunk n fields), 8 * n, 0⟩ }

/-- Three codes: 0, 10, 11. -/
def table3 : VlcTable := ⟨13, [⟨[false], 0⟩, ⟨[true, false], 1⟩, ⟨[true, true], 2⟩]⟩

def desc3 : HuffDesc := ⟨3, Vector.replicate 16 0⟩

def own3 : HuffTab := ⟨7, .custom, desc3, some table3⟩

/-- Symbol 0 ends a block, 2 escapes, 1 is a run of 1 and the value 3. -/
def map3 : RvMap := ⟨0, 2, Vector.replicate 256 1, Vector.replicate 256 3⟩

/-- A tile of `n` zero macroblocks. -/
def tileOf (w h ms n : Nat) (ref : Option Nat) : Tile := ⟨0, 0, w, h, ms, false, 0, List.replicate n Mb.zero, ref⟩

/-- A luma band of 16 by 16 samples with one tile of one macroblock of one block. -/
def luma (b : Nat) : Band :=
  { freshBand p4 false 0 b 16 16 with
    buf := some 0, refBuf := some 1, bRefBuf := some 2, mbSize := 8, blkSize := 8, transformSize := 8
    invTransform := some .haar8, dcTransform := some .dchaar8, is2d := true, scan := some (scanHorizontal 8), scanSize := 8
    intraBase := some (List.replicate 64 64), interBase := some (List.replicate 64 48), globQuant := 16, rvmapSel := 0
    blkVlc := own3, numTiles := 1, tiles := [tileOf 8 8 8 1 none] }

/-- A chroma band of 4 by 4 samples. -/
def chroma (p : Nat) : Band :=
  { freshBand p4 false p 0 4 4 with
    buf := some 0, refBuf := some 1, mbSize := 4, blkSize := 4, scan := some (scanHorizontal 4), numTiles := 1
    tiles := [tileOf 4 4 4 1 (some 0)] }

/-- An allocated engine with `n` luma bands; buffer 1 of band (0, 0) has two samples that are not 0. -/
def engine (p : Params) (n : Nat) (chunk : List Byte) : State :=
  { State.resetWith p with
    br := ⟨some chunk, 8 * chunk.length, 0⟩, alloc := .allocated, mbVlc := own3
    rvmaps := p.rvmaps.set 0 map3
    planes := #v[⟨16, 16, (List.range n).map luma⟩, ⟨4, 4, [chroma 1]⟩, ⟨4, 4, [chroma 2]⟩]
    mem := { Memory.empty with arena :=
      (0, []) :: (1, [(0, 5), (17, 7)]) :: (((List.range (4 * n)).drop 2).map fun k => (k, []))
        ++ [(32, []), (33, []), (64, []), (65, [])] } }

/-- The operand record of a transform or a prediction in band (0, 0). -/
def blockOpr (off roff1 roff2 : Int) (k2 : Nat) : Opr :=
  { Opr.zero with dst := ⟨0, 0, 0, off⟩, pitch := 16, k1 := 1, roff1 := roff1, k2 := k2, roff2 := roff2 }

def withOpr (s : State) (o : Opr) : State := { s with opr := o }

/-- An engine with one luma band and no bitstream but one byte. -/
def still (o : Opr) : State := withOpr (engine p4 1 [0]) o

/-- The state after a command. -/
def after (i : Instr) (s : State) : State :=
  match exec i s with
  | .next t => t
  | _ => s

/-- The command ends in a next state. -/
def answers (i : Instr) (s : State) : Bool :=
  match exec i s with
  | .next _ => true
  | _ => false

/-- The command ends in a next state without an error. -/
abbrev succeeds (i : Instr) (s : State) : Prop := answers i s = true ∧ (after i s).err = .none

theorem exec_after (i : Instr) (s : State) (h : answers i s = true) : exec i s = .next (after i s) := by
  unfold answers at h
  unfold after
  split <;> simp_all

/-- A succeeding command begins a run of `completes`. -/
theorem completes_cons (i : Instr) (rest : List Instr) (s t : State) (h : succeeds i s)
    (h' : completes rest (after i s) t) : completes (i :: rest) s t :=
  ⟨_, exec_after i s h.1, h.2, h'⟩

/-! ### Witnesses: hypotheses that hold together -/

/-! Encoding and the step. -/

def portState (w : CommandWord) : State := { State.reset with port := [⟨w, Opr.zero⟩] }

theorem witness_StepRunsDecoded :
    (portState 0x28000000).port = [⟨0x28000000, Opr.zero⟩] ∧ decode 0x28000000 = .ok .align ∧ State.reset.port = [] := by
  decide

theorem witness_IllegalOnlyErr :
    (Instr.getbits 26).wellFormed = false ∧ (portState 0).port = [⟨0, Opr.zero⟩] ∧ decode 0 = .error .reservedOpcode := by
  decide

theorem witness_EncodeDecode : decode 0x8000001A = .ok (.mc8d 3) := by decide

/-! The bit reader. -/

def reader : State := bound p4 4 [(0x9A785634, 32)]

def readerBE : State := bound { p4 with bitOrder := .be } 4 [(0x9A785634, 32)]

theorem witness_ReadsUnsigned :
    reader.bound = true ∧ within reader (reader.br.index + (25 : BitVec 7).toNat) ∧
    within reader (reader.br.index + (1 : BitVec 7).toNat) ∧ within reader (reader.br.index + (0 : BitVec 7).toNat) ∧
    within reader (reader.br.index + (32 : BitVec 7).toNat) ∧ within reader (reader.br.index + (64 : BitVec 7).toNat) ∧
    (Instr.getbits 25 = .getbits 25 ∧ 1 ≤ (25 : BitVec 7).toNat ∧ (25 : BitVec 7).toNat ≤ 25) ∧
    (Instr.getbitslong 32 = .getbitslong 32 ∧ (32 : BitVec 7).toNat ≤ 32) ∧
    (Instr.getbits64 64 = .getbits64 64 ∧ (64 : BitVec 7).toNat ≤ 64) := by decide

theorem witness_ReadsSigned :
    reader.bound = true ∧ within reader (reader.br.index + (1 : BitVec 7).toNat) ∧
    (Instr.getsbits 1 = .getsbits 1 ∧ 1 ≤ (1 : BitVec 7).toNat ∧ (1 : BitVec 7).toNat ≤ 25) ∧
    within reader (reader.br.index + (0 : BitVec 7).toNat) ∧
    (Instr.getsbitslong 0 = .getsbitslong 0 ∧ (0 : BitVec 7).toNat ≤ 32) ∧
    within reader (reader.br.index + (32 : BitVec 7).toNat) ∧ (32 : BitVec 7).toNat ≤ 32 := by decide

theorem witness_LooksWithoutMoving :
    reader.bound = true ∧ within reader (reader.br.index + (25 : BitVec 7).toNat) ∧
    (Instr.showbits 25 = .showbits 25 ∧ 1 ≤ (25 : BitVec 7).toNat ∧ (25 : BitVec 7).toNat ≤ 25) ∧
    within reader (reader.br.index + (32 : BitVec 7).toNat) ∧
    (Instr.showbitslong 32 = .showbitslong 32 ∧ (32 : BitVec 7).toNat ≤ 32) := by decide

theorem witness_SkipsMoveTheCursor :
    reader.bound = true ∧ within reader (reader.br.index + (127 : BitVec 7).toNat) ∧
    within reader (aligned reader.br.index) := by decide

/-- A cursor at bit 9 of a byte with 3 bits of padding. -/
def atEnd : State :=
  { bound { p4 with padBits := 3 } 1 [(0x34, 8)] with br := ⟨some [0x34], 8, 9⟩ }

theorem witness_PastPaddingOverruns :
    atEnd.bound = true ∧ bitCount (.getbits 3) = some 3 ∧ (Instr.getbits 3).wellFormed = true ∧
    ¬within atEnd (atEnd.br.index + 3) ∧ bitCount (.skipbitslong 127) = some 127 ∧
    (Instr.skipbitslong 127).wellFormed = true ∧ ¬within atEnd (atEnd.br.index + 127) ∧
    ¬within atEnd (aligned atEnd.br.index) := by decide

theorem witness_NoStreamBadState :
    isBitReader (.getbits 1) = true ∧ (Instr.getbits 1).wellFormed = true ∧ State.reset.bound = false := by decide

theorem witness_BitOrderRule :
    31 < reader.br.sizeBits ∧ reader.br.buf = some [0x34, 0x56, 0x78, 0x9A] ∧
    ([0x34, 0x56, 0x78, 0x9A] : List Byte)[31 / 8]? = some 0x9A ∧ reader.params.bitOrder = .le ∧
    31 < readerBE.br.sizeBits ∧ readerBE.br.buf = some [0x34, 0x56, 0x78, 0x9A] ∧ readerBE.params.bitOrder = .be ∧
    reader.br.sizeBits ≤ 32 ∧ 32 = reader.br.index + 32 := by decide

theorem witness_PeekFormula :
    reader.params.bitOrder = .le ∧ readerBE.params.bitOrder = .be ∧ reader.br.buf = some [0x34, 0x56, 0x78, 0x9A] ∧
    reader.br.index + 32 ≤ reader.br.sizeBits ∧ reader.br.index + 32 ≤ 8 * [0x34, 0x56, 0x78, 0x9A].length := by decide

theorem witness_ReadSplit :
    (20 : BitVec 7).toNat + (12 : BitVec 7).toNat ≤ 32 ∧ reader.bound = true ∧ readerBE.bound = true ∧
    within reader (reader.br.index + ((20 : BitVec 7).toNat + (12 : BitVec 7).toNat)) ∧
    within readerBE (readerBE.br.index + ((20 : BitVec 7).toNat + (12 : BitVec 7).toNat)) ∧
    streamHas reader ((20 : BitVec 7).toNat + (12 : BitVec 7).toNat) ∧
    streamHas readerBE ((20 : BitVec 7).toNat + (12 : BitVec 7).toNat) ∧
    reader.params.bitOrder = .le ∧ readerBE.params.bitOrder = .be := by decide

/-! VLC. -/

def coded (bits : List (Nat × Nat)) (t : VlcTable) : State := { bound p4 4 bits with slot48 := some t }

/-- A table without the code 0. -/
def table2 : VlcTable := ⟨13, [⟨[true, false], 1⟩, ⟨[true, true], 2⟩]⟩

theorem witness_VlcFirstLevel :
    (Instr.getvlc2 48 1 13).wellFormed = true ∧ (coded [(3, 2)] table3).bound = true ∧
    (coded [(3, 2)] table3).table? (48 : BitVec 6).toNat = some table3 ∧ table3.rootBits = (13 : BitVec 5).toNat ∧
    (⟨[true, true], 2⟩ : VlcCode) ∈ table3.codes ∧ prefixFree table3.codes = true ∧
    ([true, true].isPrefixOf ((coded [(3, 2)] table3).bitsAhead (13 : BitVec 5).toNat)) = true ∧
    within (coded [(3, 2)] table3) ((coded [(3, 2)] table3).br.index + 2) ∧
    (coded [] table2).table? (48 : BitVec 6).toNat = some table2 ∧ table2.rootBits = (13 : BitVec 5).toNat ∧
    (∀ c ∈ table2.codes, c.bits.isPrefixOf ((coded [] table2).bitsAhead (13 : BitVec 5).toNat) = false ∧
      ((coded [] table2).bitsAhead (13 : BitVec 5).toNat).isPrefixOf c.bits = false) := by decide

/-- The codes of 16 rows of one code each: 1 to 15 bits, the last of them twice. -/
def desc16 : HuffDesc := ⟨16, Vector.replicate 16 0⟩

def table16 : VlcTable :=
  ⟨13, (List.range 16).map fun i =>
    ⟨List.replicate i true ++ (if i = 15 then [] else [false]), (i : Int)⟩⟩

def code15 : VlcCode := ⟨List.replicate 15 true, 15⟩

theorem witness_VlcRoundTrip :
    huffBuild p4 desc16 = .ok table16 ∧ code15 ∈ table16.codes ∧
    (coded [(0x7FFF, 15)] table16).slot48 = some table16 ∧ (coded [(0x7FFF, 15)] table16).bound = true ∧
    (∀ k, k < code15.bits.length → (coded [(0x7FFF, 15)] table16).bsBit
      ((coded [(0x7FFF, 15)] table16).br.index + k) = code15.bits[k]?) ∧
    code15.bits.length ≤ 13 * (2 : BitVec 2).toNat := by decide

/-- A code of 13 bits, the longest that one level holds. -/
theorem witness_VlcRoundTrip_one_level :
    (⟨List.replicate 12 true ++ [false], 12⟩ : VlcCode) ∈ table16.codes ∧
    (∀ k, k < 13 → (coded [(0xFFF, 13)] table16).bsBit ((coded [(0xFFF, 13)] table16).br.index + k)
      = (List.replicate 12 true ++ [false])[k]?) ∧ 13 ≤ 13 * (1 : BitVec 2).toNat := by decide

def build (d : HuffDesc) (root : Nat) (codes : List OprCode) : State :=
  { State.reset with opr := { Opr.zero with desc := d, rootBits := root, codes := codes } }

/-- A row of 2 ^ 9 codes. -/
def descMany : HuffDesc := ⟨1, Vector.replicate 16 9⟩

theorem witness_TableSlotBuilt :
    huffBuild (build desc3 1 []).params (build desc3 1 []).opr.desc = .ok table3 ∧
    huffBuild (build descMany 1 []).params (build descMany 1 []).opr.desc = .error .tooMany := by decide

theorem witness_TableSlotBuilt_initvlc :
    (∀ r ∈ [1, 30], let s := build desc3 r [⟨0, 1, 4⟩, ⟨0, 0, 9⟩, ⟨0xFFFFFFFF, 32, 5⟩]
      1 ≤ s.opr.rootBits ∧ s.opr.rootBits ≤ 30 ∧ (∀ c ∈ s.opr.codes, c.len ≤ 32) ∧
      prefixFree ((s.opr.codes.map oprCode).filter fun c => !c.bits.isEmpty) = true) ∧
    (build desc3 0 []).opr.rootBits = 0 ∧ 30 < (build desc3 31 []).opr.rootBits ∧
    (∃ c ∈ (build desc3 1 [⟨0, 33, 4⟩]).opr.codes, 32 < c.len) ∧
    (∀ c ∈ (build desc3 1 [⟨0, 1, 4⟩, ⟨0, 1, 4⟩]).opr.codes, c.len ≤ 32) ∧
    prefixFree (((build desc3 1 [⟨0, 1, 4⟩, ⟨0, 1, 4⟩]).opr.codes.map oprCode).filter fun c => !c.bits.isEmpty)
      = false := by decide

theorem witness_HuffCodes :
    huffBuild p4 desc3 = .ok table3 ∧ ((descRows desc3).map fun x => 2 ^ x).sum ≤ 256 ∧ descRows desc3 ≠ [] ∧
    descRows desc3 ≠ [0] := by decide

/-- A stream that holds a selection: 3 bits, then a row count and the rows. -/
def selecting (bits : List (Nat × Nat)) (h : HuffTab) : State := { bound p4 4 bits with blkVlc := h }

theorem witness_HuffDescSelects :
    legalHuffSlot 17 = true ∧ (selecting [(6, 3)] own3).huffReg? (17 : BitVec 6).toNat = some own3 ∧
    (selecting [(6, 3)] own3).params.huffNotCoded = .reuse ∧
    State.huffReg? { selecting [(6, 3)] own3 with params := { p4 with huffNotCoded := .default7 } } (17 : BitVec 6).toNat
      = some own3 ∧
    (selecting [(6, 3)] own3).bound = true ∧
    within (selecting [(6, 3)] own3) ((selecting [(6, 3)] own3).br.index + 3) ∧
    (selecting [(6, 3)] own3).peek 3 = (6 : BitVec 3).toNat ∧ (6 : BitVec 3) ≠ 7 := by decide

theorem witness_HuffDescSelects_band :
    legalHuffSlot 32 = true ∧ (engine p4 1 [2]).huffReg? (32 : BitVec 6).toNat = some own3 ∧
    (engine p4 1 [2]).bound = true ∧ within (engine p4 1 [2]) ((engine p4 1 [2]).br.index + 3) ∧
    (engine p4 1 [2]).peek 3 = (2 : BitVec 3).toNat ∧ (2 : BitVec 3) ≠ 7 := by decide

theorem witness_HuffDescCustom_empty :
    legalHuffSlot 17 = true ∧ (selecting [(7, 3), (0, 4)] own3).huffReg? (17 : BitVec 6).toNat = some own3 ∧
    (selecting [(7, 3), (0, 4)] own3).bound = true ∧ streamHas (selecting [(7, 3), (0, 4)] own3) (7 + 4 * (0 : Fin 16)) ∧
    (selecting [(7, 3), (0, 4)] own3).peek 3 = 7 ∧
    field (selecting [(7, 3), (0, 4)] own3) 3 4 = (0 : Fin 16) := by decide

theorem witness_HuffDescCustom :
    ∀ h ∈ [own3, HuffTab.reset .blk], let s := selecting [(7, 3), (3, 4)] h
      s.huffReg? (17 : BitVec 6).toNat = some h ∧ s.bound = true ∧ streamHas s (7 + 4 * (3 : Fin 16)) ∧ s.peek 3 = 7 ∧
      field s 3 4 = (3 : Fin 16) ∧ desc3.numRows.val = (3 : Fin 16).val ∧
      (∀ k : Fin 16, desc3.xbits[k] = if k < 3 then BitVec.ofNat 4 (field s (7 + 4 * k) 4) else 0) ∧
      huffBuild s.params desc3 = .ok table3 ∧
      (descSame desc3 h.custDesc && h.custTab.isSome) = decide (h = own3) := by decide

/-! Transforms. -/

theorem witness_TransformWindow :
    (Instr.haar8, InvTx.haar8) ∈ invTxOf ∧ InvTx.haar8.size = 8 ∧
    hasTarget (still (blockOpr 136 0 0 2)) 0 0 0 = true ∧
    (0 ≤ (136 : Int) ∧ (136 : Int) + ((8 : Int) - 1) * (16 : Nat) + 8 ≤ (still (blockOpr 136 0 0 2)).bandSize 0 0) ∧
    ¬((137 : Int) + ((8 : Int) - 1) * (16 : Nat) + 8 ≤ (still (blockOpr 137 0 0 2)).bandSize 0 0) ∧
    hasTarget State.reset 0 0 0 = false := by decide

theorem witness_InvTxSamples :
    let s := still { blockOpr 136 0 0 2 with
      coefs := Vector.replicate 64 0x100000, flags := Vector.replicate 8 true }
    (Instr.slant8, InvTx.slant8) ∈ invTxOf ∧ s.MemoryOk ∧ hasTarget s 0 0 0 = true ∧ InvTx.slant8.size ≤ s.opr.pitch ∧
    0 ≤ s.opr.dst.off ∧ (136 : Int) + ((8 : Int) - 1) * (16 : Nat) + 8 ≤ s.bandSize 0 0 ∧ s.params.kernels = .standard ∧
    (∀ i : Fin 64, -2 ^ 20 ≤ (s.opr.coefs[i]).toInt ∧ (s.opr.coefs[i]).toInt ≤ 2 ^ 20) ∧
    kernelOk (invKernel s.params.kernels .slant8 s.opr.coefs s.opr.flags) = true := by decide +kernel

/-- The statement's kernels on V-TX-11 to V-TX-21: a coefficient vector, the flags, and the rows they give. -/
theorem test_kernelValue :
    let at' := fun (l : List (Nat × Coef)) => l.foldl (fun v e => v.setIfInBounds e.1 e.2) (Vector.replicate 64 (0 : Coef))
    let on := fun (l : List Nat) => l.foldl (fun v e => v.setIfInBounds e true) (Vector.replicate 8 false)
    let rows := fun (tx : InvTx) l fl =>
      (List.range tx.size).map fun r => (List.range tx.size).map fun c => kernelValue tx (at' l) (on fl) r c
    (rows .copy8 [(9, -5)] [] = [List.replicate 8 0, [0, -5, 0, 0, 0, 0, 0, 0]] ++ List.replicate 6 (List.replicate 8 0)) ∧
    rows .haarrow8 [(0, 8)] [] = List.replicate 8 2 :: List.replicate 7 (List.replicate 8 0) ∧
    rows .haarcol8 [(0, 8)] [0] = List.replicate 8 [2, 0, 0, 0, 0, 0, 0, 0] ∧
    rows .haar8 [(1, 16)] [1] = List.replicate 8 [2, 2, 2, 2, -2, -2, -2, -2] ∧
    rows .haar8 [(8, 16)] [0] = List.replicate 4 (List.replicate 8 2) ++ List.replicate 4 (List.replicate 8 (-2)) ∧
    rows .haar4 [(1, 8)] [1] = List.replicate 4 [1, 1, -1, -1] ∧
    rows .slant4 [(0, 4), (1, 4)] [0, 1] = List.replicate 4 [5, 3, 2, -1] ∧
    rows .slant8 [(0, 8), (1, 8)] [0, 1] = List.replicate 8 [11, 8, 7, 5, 4, 1, 0, -2] ∧
    rows .slant8 [(0, 16)] [] = List.replicate 8 (List.replicate 8 0) ∧
    rows .slantrow8 [(0, 2)] [] = List.replicate 8 1 :: List.replicate 7 (List.replicate 8 0) ∧
    rows .slantcol4 [(0, 2)] [0] = List.replicate 4 [1, 0, 0, 0] := by decide +kernel

/-- An engine with a DC value and the vector that holds it alone. -/
def dcState (dc : Coef) : State :=
  still { blockOpr 136 0 0 2 with coefs := dcOnly dc, flags := firstColumn, dc := dc }

theorem witness_DcTxSamples :
    (Instr.dcrowslant4, DcTx.dcrowslant4) ∈ dcTxOf ∧ (dcState 0x7FFFFFFE).MemoryOk ∧
    hasTarget (dcState 0x7FFFFFFE) 0 0 0 = true ∧ DcTx.dcrowslant4.size ≤ (dcState 0x7FFFFFFE).opr.pitch ∧
    0 ≤ (dcState 0x7FFFFFFE).opr.dst.off ∧
    (136 : Int) + ((4 : Int) - 1) * (16 : Nat) + 4 ≤ (dcState 0x7FFFFFFE).bandSize 0 0 ∧
    (dcState 0x7FFFFFFE).opr.dc.toInt ≠ 2 ^ 31 - 1 := by decide +kernel

theorem witness_DcEquivalence :
    (dcState 0x0FFFFFFF).opr.coefs = dcOnly (dcState 0x0FFFFFFF).opr.dc ∧
    (dcState 0x0FFFFFFF).opr.flags = firstColumn ∧ -2 ^ 28 < (dcState 0x0FFFFFFF).opr.dc.toInt ∧
    (dcState 0x0FFFFFFF).opr.dc.toInt < 2 ^ 28 := ⟨rfl, rfl, by decide, by decide⟩

theorem witness_RowColumnDc :
    (dcState 0x7FFFFFFF).params.kernels = .standard ∧
    (dcState 0x7FFFFFFF).opr.coefs = dcOnly (dcState 0x7FFFFFFF).opr.dc ∧
    (dcState 0x7FFFFFFF).opr.flags = firstColumn ∧ (dcState 0x7FFFFFFF).MemoryOk ∧
    8 ≤ (dcState 0x7FFFFFFF).opr.pitch := ⟨rfl, rfl, rfl, by decide, by decide⟩

/-! Motion compensation. -/

/-- A prediction of type 3 whose block and reference end with the buffer. -/
def mcState : State := still (blockOpr 136 119 119 2)

theorem witness_McWritesPrediction :
    (Instr.mc8d, 8, true) ∈ mcOf ∧ mcState.MemoryOk ∧ mcState.band? 0 0 = some (luma 0) ∧ 8 ≤ (luma 0).pitch ∧
    mcWindows (luma 0) mcState.opr 8 3 ∧ mcBuffers mcState :=
  ⟨.tail _ (.head _), by decide⟩

theorem witness_McAvgWritesAverage :
    (Instr.mcavg8nd, 8, false) ∈ mcAvgOf ∧ mcState.MemoryOk ∧ mcState.band? 0 0 = some (luma 0) ∧ 8 ≤ (luma 0).pitch ∧
    mcWindows (luma 0) mcState.opr 8 3 ∧ windowOk (luma 0) mcState.opr.roff2 8 (extraReach (luma 0) 3) ∧
    mcBuffers2 mcState :=
  ⟨.head _, by decide⟩

theorem witness_McErrors :
    (Instr.mc8nd, 8, false) ∈ mcOf ∧ (Instr.mcavg8nd, 8, false) ∈ mcAvgOf ∧
    mcState.band? mcState.opr.dst.p mcState.opr.dst.b = some (luma 0) ∧
    ¬mcWindows (luma 0) (blockOpr 136 120 0 2) 8 3 ∧ ¬mcWindows (luma 0) (blockOpr 137 0 0 2) 8 0 ∧
    ¬windowOk (luma 0) (blockOpr 136 119 (-1) 2).roff2 8 (extraReach (luma 0) 0) :=
  ⟨.head _, .head _, by decide⟩

theorem witness_McErrors_buffers :
    let missing := still { blockOpr 136 119 119 9 with k1 := 9 }
    let same := still { blockOpr 136 119 119 2 with k1 := 0 }
    mcWindows (luma 0) missing.opr 8 3 ∧ (missing.hasBuffer 0 0 0 && missing.hasBuffer 0 0 9) = false ∧
    (missing.hasBuffer 0 0 0 && missing.hasBuffer 0 0 9 && missing.hasBuffer 0 0 9) = false ∧
    mcWindows (luma 0) same.opr 8 3 ∧ windowOk (luma 0) same.opr.roff2 8 (extraReach (luma 0) 3) ∧
    (same.hasBuffer 0 0 0 && same.hasBuffer 0 0 0) = true ∧
    (same.hasBuffer 0 0 0 && same.hasBuffer 0 0 0 && same.hasBuffer 0 0 2) = true ∧ same.opr.dst.k = same.opr.k1 := by
  decide

theorem witness_FullPelAndBilinear :
    let s := still (blockOpr 136 119 119 1)
    (Instr.mc8nd, 8, false) ∈ mcOf ∧ (Instr.mcavg8nd, 8, false) ∈ mcAvgOf ∧ s.MemoryOk ∧
    s.band? s.opr.dst.p s.opr.dst.b = some (luma 0) ∧ mcBuffers s ∧ 8 ≤ (luma 0).pitch ∧
    mcWindows (luma 0) s.opr 8 0 ∧ mcWindows (luma 0) s.opr 8 3 ∧ s.opr.k2 = s.opr.k1 ∧ s.opr.roff2 = s.opr.roff1 ∧
    -2 ^ 15 < 2 * (s.sample 0 0 s.opr.k1 (cell (luma 0) s.opr.roff1 0 0)).toInt ∧
    2 * (s.sample 0 0 s.opr.k1 (cell (luma 0) s.opr.roff1 0 0)).toInt < 2 ^ 15 :=
  ⟨.head _, .head _, by decide⟩

theorem witness_DeltaOverNoDelta :
    mcState.MemoryOk ∧ mcState.band? mcState.opr.dst.p mcState.opr.dst.b = some (luma 0) ∧ 8 ≤ (luma 0).pitch ∧
    ∀ r c, r < 8 → c < 8 → mcState.sample mcState.opr.dst.p mcState.opr.dst.b mcState.opr.dst.k
      (cell (luma 0) mcState.opr.dst.off r c) = 0 :=
  ⟨by decide, by decide, by decide, fun _ _ _ _ => rfl⟩

/-! Coefficients, blocks, tiles, bands. -/

/-- DEQUANT at a position, with a quantiser. -/
def dequantState (intra : Bool) (pos : Nat) (quant : Int) : State :=
  still { Opr.zero with intra := intra, pos := pos, val := 3, quant := quant }

theorem witness_DequantValue :
    ready (dequantState true 63 16) 0 0 (luma 0) ∧ (luma 0).intraBase = some (List.replicate 64 64) ∧
    (dequantState true 63 16).opr.pos < (luma 0).blkSize * (luma 0).blkSize ∧
    (List.replicate 64 (64 : BitVec 16))[63]? = some 64 ∧
    (luma 0).blkSize * (luma 0).blkSize ≤ (dequantState true 64 16).opr.pos ∧
    ready (withOpr (engine p4 1 [0]) { Opr.zero with dst := ⟨1, 0, 0, 0⟩ }) 1 0 (chroma 1) ∧
    (chroma 1).interBase = none := by decide

/-- A block of the symbols 1 and 0: the bits 1, 0, 0. -/
def flatState : State := withOpr (engine p4 1 [1]) Opr.zero

theorem witness_FlatBlock :
    (flatState.params.kernels = .standard ∧ flatState.MemoryOk ∧ ready flatState (0 : BitVec 2).toNat (0 : BitVec 2).toNat (luma 0) ∧
    flatState.mb? 0 0 flatState.opr.t flatState.opr.m = some Mb.zero ∧ flatState.opr.blk < 4 ∧ Mb.zero.type = 0 ∧
    (luma 0).is2d = true ∧ (InvTx.haar8, DcTx.dchaar8) ∈ dcPairs ∧ (luma 0).invTransform = some .haar8 ∧
    (luma 0).blkSize = InvTx.haar8.size ∧ (luma 0).transformSize = InvTx.haar8.size ∧
    InvTx.haar8.size ≤ (luma 0).pitch ∧
    blockIn (luma 0) (blockOffset (luma 0) Mb.zero flatState.opr.blk) InvTx.haar8.size ∧
    (luma 0).scan = some (scanHorizontal 8) ∧ (scanHorizontal 8)[0]? = some 0 ∧
    (luma 0).intraBase = some (List.replicate 64 64) ∧ (List.replicate 64 (64 : BitVec 16))[0]? = some 64 ∧
    flatState.tableOf (luma 0).blkVlc = some table3) ∧
    codesAhead flatState table3 0 ⟨[true, false], 1⟩ ⟨[false], 0⟩ ∧ flatState.rvmaps[(luma 0).rvmapSel] = map3 ∧
    (1 : Fin 256).val ≠ map3.eobSym.toNat ∧ (1 : Fin 256).val ≠ map3.escSym.toNat ∧ (0 : Int) = map3.eobSym.toNat ∧
    map3.runtab[(1 : Fin 256)] = 1 ∧ map3.valtab[(1 : Fin 256)] = 3 ∧
    mbQuant flatState.params.codec (luma 0) Mb.zero = 16 ∧
    wrap32 (flatState.scratch.prevDc.toInt + (dequantWith (asr ((64 : Int) * 16) 9) 3).toInt) = 7 ∧
    (7 : Coef).toInt > -2 ^ 28 ∧ (7 : Coef).toInt < 2 ^ 28 :=
  ⟨by decide, by decide, rfl, by decide, by decide, by decide, by decide, by decide, by decide, by decide, by decide,
    by decide⟩

/-- The tile of the luma band. -/
def lumaTile : Tile := tileOf 8 8 8 1 none

theorem witness_DcBlockFills :
    ready flatState 0 0 (luma 0) ∧ flatState.mb? 0 0 flatState.opr.t flatState.opr.m = some Mb.zero ∧
    flatState.opr.blk < 4 ∧ blockIn (luma 0) (blockOffset (luma 0) Mb.zero flatState.opr.blk) (luma 0).blkSize ∧
    Mb.zero.type = 0 ∧ (luma 0).dcTransform = some .dchaar8 ∧
    blockIn (luma 0) (blockOffset (luma 0) Mb.zero flatState.opr.blk) DcTx.dchaar8.size ∧ (chroma 1).dcTransform = none ∧
    ready flatState 1 0 (chroma 1) ∧ flatState.mb? 1 0 flatState.opr.t flatState.opr.m = some Mb.zero ∧
    blockIn (chroma 1) (blockOffset (chroma 1) Mb.zero flatState.opr.blk) (chroma 1).blkSize := by decide

/-- The engine with another macroblock in its luma tile. -/
def withMb (s : State) (mb : Mb) : State := s.updMb 0 0 0 0 fun _ => mb

theorem witness_DcBlockFills_inter :
    ∀ e ∈ [((1 : BitVec 2), 1, 0, none), (2, 2, 0, none), (3, 1, 2, some 3)],
      let mb : Mb := { Mb.zero with type := e.1, mvX := 1, bMvX := 1, bMvY := 1 }
      let bd : Band := { luma 0 with isHalfpel := true, tiles := [{ lumaTile with mbs := [mb] }] }
      let s := flatState.updBand 0 0 fun _ => bd
      ready s 0 0 bd ∧ s.mb? 0 0 s.opr.t s.opr.m = some mb ∧ mb.type = e.1 ∧ bd.refBuf = some 1 ∧ bd.bRefBuf = some 2 ∧
      vectorsFit bd mb = true ∧
      checkMc ⟨0, 0, s.rot.dstBuf, 0, e.2.1, 0, e.2.2.1, 0⟩ bd.blkSize (if e.1 = 2 then 3 else 1) e.2.2.2 s = none := by
  decide

theorem witness_TileBlocksFillZero :
    flatState.MemoryOk ∧ flatState.bound = true ∧ ready flatState (0 : BitVec 2).toNat (0 : BitVec 2).toNat (luma 0) ∧
    flatState.tile? 0 0 flatState.opr.t = some lumaTile ∧ lumaTile.mbs = [Mb.zero] ∧ Mb.zero.type = 0 ∧
    Mb.zero.cbp = 0 ∧ (luma 0).mbSize = (luma 0).blkSize ∧ (luma 0).dcTransform = some .dchaar8 ∧
    (luma 0).blkSize = DcTx.dchaar8.size ∧ DcTx.dchaar8.size ≤ (luma 0).pitch ∧
    blockIn (luma 0) Mb.zero.bufOffs DcTx.dchaar8.size ∧ within flatState (aligned flatState.br.index) := by decide

theorem witness_EmptyTileCopies :
    flatState.MemoryOk ∧ ready flatState (0 : BitVec 2).toNat (0 : BitVec 2).toNat (luma 0) ∧
    flatState.tile? 0 0 flatState.opr.t = some lumaTile ∧ (luma 0).mbSize ≠ 0 ∧
    lumaTile.mbs.length = ceilDiv lumaTile.width (luma 0).mbSize * ceilDiv lumaTile.height (luma 0).mbSize ∧
    (luma 0).inheritMv = false ∧ (luma 0).refBuf = some 1 ∧ flatState.hasBuffer 0 0 1 = true ∧
    lumaTile.refTile = none := by decide

/-- A chroma band that inherits the vector of the luma macroblock, which is `(v, v)`. -/
def movedState (v : Int) : State :=
  (withMb flatState { Mb.zero with mvX := v, mvY := v, qDelta := 7 }).updBand 1 0 fun bd =>
    { bd with inheritMv := true, inheritQdelta := true, isHalfpel := true }

/-- The vector 0 is inherited as 0, and the vector (5, 5) as (3, 3). -/
theorem witness_EmptyTileCopies_chroma :
    ∀ e ∈ [((0 : Int), (0 : Int)), (5, 3)], let s := movedState e.1; let tl := tileOf 4 4 4 1 (some 0)
      let bd : Band := { chroma 1 with inheritMv := true, inheritQdelta := true, isHalfpel := true }
      let mb := emptyRecord s bd tl 0 Mb.zero
      s.MemoryOk ∧ ready s (1 : BitVec 2).toNat (0 : BitVec 2).toNat bd ∧ s.tile? 1 0 s.opr.t = some tl ∧
      bd.mbSize ≠ 0 ∧ tl.mbs.length = ceilDiv tl.width bd.mbSize * ceilDiv tl.height bd.mbSize ∧ bd.refBuf = some 1 ∧
      s.hasBuffer 1 0 1 = true ∧ tl.refTile = some 0 ∧ (1 : BitVec 2) ≠ 0 ∧ (s.mb? 0 0 0 0).isSome = true ∧
      tl.mbs = [Mb.zero] ∧ bd.inheritMv = true ∧ mb.mvX = e.2 ∧ mb.mvY = e.2 ∧ mb.qDelta = 7 ∧
      vectorFits bd mb.xpos mb.ypos mb.mvX mb.mvY = true ∧ bd.mbSize = bd.blkSize ∧
      checkMc ⟨1, 0, s.rot.dstBuf, 0, 1, halve true e.2 * 8 + halve true e.2, 0, 0⟩ bd.blkSize (mcType true e.2 e.2) none s
        = none := by decide +kernel

theorem witness_TileSizeValue :
    (let s := bound p4 1 [(0, 1)]
     s.bound = true ∧ streamHas s 1 ∧ field s 0 1 = 0 ∧ within s (aligned (s.br.index + 1))) ∧
    (let s := bound p4 2 [(1, 1), (254, 8)]
     s.bound = true ∧ streamHas s 9 ∧ field s 0 1 = 1 ∧ field s 1 8 ≠ 255 ∧ within s (aligned (s.br.index + 9))) ∧
    (let s := bound p4 5 [(1, 1), (255, 8), (0xFFFFFF, 24)]
     s.bound = true ∧ streamHas s 33 ∧ field s 0 1 = 1 ∧ field s 1 8 = 255 ∧ within s (aligned (s.br.index + 33))) := by
  decide

/-- An engine for DECMBINFO of the luma tile. -/
def infoState (p : Params) (ft : BitVec 3) (byte : Byte) : State := { engine p 1 [byte] with frameType := ft }

/-- What the statement asks of all three kinds of macroblock. -/
abbrev infoReady (s : State) : Prop :=
  s.bound = true ∧ ready s 0 0 (luma 0) ∧ s.tile? 0 0 s.opr.t = some lumaTile ∧ lumaTile.mbs = [Mb.zero] ∧
    (luma 0).mbSize ≠ 0 ∧ ceilDiv lumaTile.width (luma 0).mbSize * ceilDiv lumaTile.height (luma 0).mbSize = 1 ∧
    (luma 0).inheritMv = false ∧ (luma 0).inheritQdelta = false ∧ (luma 0).qdeltaPresent = false ∧ s.hdr.inQ = false ∧
    s.hdr.frameFlags.getLsbD 3 = false ∧ lumaTile.refTile = none ∧ ¬((luma 0).mbSize ≠ (luma 0).blkSize)

theorem witness_MbInfoOneMacroblock_intra :
    ∀ s ∈ [infoState p4 0 0, infoState p5 0 0], infoReady s ∧ s.frameType = 0 ∧ streamHas s 2 ∧ field s 0 1 = 0 ∧
      field s 1 1 = 0 ∧ within s (aligned (s.br.index + 2)) := by decide

theorem witness_MbInfoOneMacroblock_empty :
    ∀ s ∈ [infoState p4 2 1, infoState p5 1 1], infoReady s ∧ s.frameType ≠ 0 ∧ streamHas s 1 ∧ field s 0 1 = 1 ∧
      within s (aligned (s.br.index + 1)) ∧
      lumaTile.xpos + (luma 0).mbSize + (lumaTile.ypos + (luma 0).mbSize - 1) * (luma 0).pitch
        ≤ (luma 0).pitch * (luma 0).aheight := by decide

/-- One with the symbols 1 and 2 after its three bits. -/
theorem witness_MbInfoOneMacroblock_inter :
    ∀ s ∈ [infoState p4 2 106, infoState p5 1 106], infoReady s ∧
      s.frameType = (if s.params.codec = .indeo4 then 2 else 1) ∧ streamHas s 3 ∧ field s 0 1 = 0 ∧ field s 1 1 = 1 ∧
      field s 2 1 = 0 ∧ s.tableOf s.mbVlc = some table3 ∧
      codesAhead s table3 3 ⟨[true, false], 1⟩ ⟨[true, true], 2⟩ ∧ within s (aligned (s.br.index + 7)) ∧
      mbWindow (luma 0) { Mb.zero with type := 1, mvX := toSigned 2, mvY := toSigned 1 } = true := by decide

/-- An INDEO4 BIDIR engine at the bits of one macroblock. -/
def bidirState (fields : List (Nat × Nat)) : State := { engine p4 1 (chunk 2 fields) with frameType := 3 }

theorem witness_MbInfoOneMacroblock_backward :
    let s := bidirState [(0, 1), (2, 2), (0, 1), (3, 2), (0, 1)]
    infoReady s ∧ s.params.codec = .indeo4 ∧ s.frameType = 3 ∧ streamHas s 4 ∧ field s 0 1 = 0 ∧ field s 1 2 = 2 ∧
    field s 3 1 = 0 ∧ s.tableOf s.mbVlc = some table3 ∧ codesAhead s table3 4 ⟨[true, true], 2⟩ ⟨[false], 0⟩ ∧
    within s (aligned (s.br.index + 7)) ∧
    mbWindow (luma 0) { Mb.zero with type := 2, bMvX := -toSigned 0, bMvY := -toSigned 2 } = true := by decide

theorem witness_MbInfoOneMacroblock_both :
    let s := bidirState [(0, 1), (3, 2), (0, 1), (1, 2), (0, 1), (3, 2), (0, 1)]
    infoReady s ∧ s.frameType = 3 ∧ streamHas s 4 ∧ field s 0 1 = 0 ∧ field s 1 2 = 3 ∧ field s 3 1 = 0 ∧
    s.tableOf s.mbVlc = some table3 ∧ codesAhead s table3 4 ⟨[true, false], 1⟩ ⟨[false], 0⟩ ∧
    codesAhead s table3 7 ⟨[true, true], 2⟩ ⟨[false], 0⟩ ∧ within s (aligned (s.br.index + 10)) ∧
    mbWindow (luma 0) { Mb.zero with
      type := 3, mvX := toSigned 0, mvY := toSigned 1, bMvX := -(toSigned 0 + toSigned 0)
      bMvY := -(toSigned 1 + toSigned 2) } = true := by decide

/-- A chroma macroblock that inherits the luma one's, of each type: the flag 1, or the flag 0 and no coded block. -/
theorem witness_MbInfoOneMacroblock_inherited :
    ∀ e ∈ [(p4, (2 : BitVec 3)), (p5, 1)], ∀ ty ∈ [(0 : BitVec 2), 1, 2, 3], ∀ byte ∈ [(0 : Byte), 1],
      let ref : Mb := { Mb.zero with type := ty, mvX := 3, mvY := 1, qDelta := 7 }
      let bd : Band := { chroma 1 with inheritMv := true, inheritQdelta := true, qdeltaPresent := true }
      let s := ((withMb (infoState e.1 e.2 byte) ref).updBand 1 0 fun _ => bd)
      let tl := tileOf 4 4 4 1 (some 0)
      s.bound = true ∧ ready s 1 0 bd ∧ s.tile? 1 0 s.opr.t = some tl ∧ tl.mbs = [Mb.zero] ∧ bd.mbSize ≠ 0 ∧
      ceilDiv tl.width bd.mbSize * ceilDiv tl.height bd.mbSize = 1 ∧ bd.inheritMv = true ∧ bd.isFirst = false ∧
      refOf s tl 0 = some ref ∧ s.frameType ≠ 0 ∧ streamHas s 2 ∧ field s 0 1 = byte.toNat ∧ field s 1 1 = 0 ∧
      within s (aligned (s.br.index + 1)) ∧ within s (aligned (s.br.index + 2)) ∧ bd.mbSize = bd.blkSize ∧
      inherited (vectorScale s bd) 3 = 2 ∧ inherited (vectorScale s bd) 1 = 1 ∧
      mbWindow bd { Mb.zero with type := ty, mvX := 2, mvY := 1 } = true ∧
      (e.1.codec = .indeo4 → ty = 2 → mbWindow bd { Mb.zero with type := 2, bMvX := -2, bMvY := -1 } = true) := by
  decide +kernel

theorem witness_EmptyBand :
    ∀ e ∈ [EmptyBand.keep, .zero, .error], let s := engine { p5 with emptyBand := e } 1 [1]
      s.MemoryOk ∧ s.bound = true ∧ ready s 0 0 (luma 0) ∧ s.params.codec = .indeo5 ∧ streamHas s 8 ∧
      field s 0 8 % 2 = 1 ∧ within s (aligned (s.br.index + 8)) ∧ s.params.emptyBand = e := by decide

/-- The INDEO5 band header of one correction, then a tile. -/
def bandState (tile : List (Nat × Nat)) : State :=
  engine p5 1 (chunk 12 ([(0x10, 8), (1, 8), (1, 8), (5, 8), (0, 1), (31, 5), (0, 2)] ++ tile))

/-- After the band header. -/
def headed (s : State) : State := after (.bandhdr 0 0) (s.updBand 0 0 fun _ => { luma 0 with bRefBuf := none })

/-- With the corrections applied and the tile's flag read. -/
def flaggedState (h : State) (empty : Bool) : State :=
  let hb := (h.band? 0 0).getD (luma 0)
  State.updTile
    { h with
      rvmaps := h.rvmaps.set hb.rvmapSel (correctAll h.rvmaps[hb.rvmapSel] hb.corrPairs)
      br := atBit h (h.br.index + 1), opr := { h.opr with t := 0 } }
    0 0 0 fun tl => { tl with isEmpty := empty }

/-- What the statement asks of a band of one tile. -/
abbrev bandReady (s : State) : Prop :=
  s.bound = true ∧ ready s 0 0 (luma 0) ∧ s.params.codec = .indeo5 ∧ s.rot.dstBuf = 0 ∧ s.rot.refBuf = 1 ∧
    succeeds (.bandhdr 0 0) (s.updBand 0 0 fun _ => { luma 0 with bRefBuf := none }) ∧
    ((headed s).band? 0 0).any (fun hb => !hb.isEmpty && hb.numTiles = 1 && hb.corrPairs = [(1, 5)] &&
      hb.tiles = [tileOf 8 8 8 1 none] && hb.mbSize = 8) = true ∧ streamHas (headed s) 1

theorem witness_EmptyBand_empty_tile :
    let s := bandState [(1, 1)]
    bandReady s ∧ field (headed s) 0 1 = 1 ∧ succeeds (.emptytile 0 0) (flaggedState (headed s) true) ∧
    (let v := after (.emptytile 0 0) (flaggedState (headed s) true)
     within v (aligned v.br.index)) := by decide +kernel

/-- A tile of one uncoded intra macroblock is 3 bytes long: with the size 3, and with the size 4. -/
theorem witness_EmptyBand_coded_tile :
    ∀ size ∈ [3, 4], let s := bandState [(0, 1), (1, 1), (size, 8), (0, 6), (0, 2)]
      let a := after .tilesize (flaggedState (headed s) false)
      let sized := State.updTile { a with res := s.res } 0 0 0 fun tl => { tl with dataSize := BitVec.ofNat 24 size }
      let v := after (.dectileblks 0 0) (after (.decmbinfo 0 0) sized)
      bandReady s ∧ field (headed s) 0 1 = 0 ∧ succeeds .tilesize (flaggedState (headed s) false) ∧
      a.res = (BitVec.ofNat 24 size).setWidth 64 ∧ BitVec.ofNat 24 size ≠ 0 ∧ succeeds (.decmbinfo 0 0) sized ∧
      succeeds (.dectileblks 0 0) (after (.decmbinfo 0 0) sized) ∧
      (v.br.index - (headed s).br.index) / 8 = 3 ∧ within v (aligned v.br.index) := by decide +kernel

/-- A tile size of 0. -/
theorem witness_EmptyBand_no_size :
    let s := bandState [(0, 1), (0, 1)]
    bandReady s ∧ field (headed s) 0 1 = 0 ∧ succeeds .tilesize (flaggedState (headed s) false) ∧
    (after .tilesize (flaggedState (headed s) false)).res = (0 : BitVec 24).setWidth 64 := by decide +kernel

/-! Allocation. -/

/-- The configuration of a picture with a tile as large. -/
def confOf (w h : BitVec 16) (l c : BitVec 3) : PicConf := ⟨w, h, quarter w, quarter h, w, h, l, c⟩

/-- The largest square but one that fits, and the smallest that does not. -/
theorem witness_PlanesAllocated :
    (0 < 16256 ∧ 0 < 16255 ∧ (16256 + 128) * (16255 + 128) < (2 ^ 31 - 1) / 8) ∧
    ¬(16256 + 128) * (16256 + 128) < (2 ^ 31 - 1) / 8 ∧
    (confOf 16256 16255 4 1).picWidth.toNat = 16256 ∧ 1 ≤ (confOf 16256 16255 4 1).lumaBands.toNat ∧
    1 ≤ (confOf 16256 16255 4 1).chromaBands.toNat := by decide

theorem witness_PlanesGeometry :
    configFits (withOpr State.reset { Opr.zero with cfg := confOf 1 1 4 1 }).opr.cfg = true ∧
    configFits (withOpr State.reset { Opr.zero with cfg := confOf 640 480 1 1 }).opr.cfg = true := by decide

/-- The bands of an engine whose luma band has one macroblock. -/
def tilesBand (p : Fin 3) : Band := if p = 0 then { luma 0 with mbSize := 16 } else chroma p

def tilesState : State :=
  { engine p4 1 [0] with
    planes := #v[⟨16, 16, [tilesBand 0]⟩, ⟨4, 4, [tilesBand 1]⟩, ⟨4, 4, [tilesBand 2]⟩]
    opr := { Opr.zero with tileWidth := 16, tileHeight := 16 } }

theorem witness_TilesBuilt :
    tilesState.alloc = .allocated ∧ (∀ p : Fin 3, tilesState.planes[p].bands = [tilesBand p]) ∧
    ∀ p : Fin 3, 0 < (tilesBand p).width ∧
      (tilesBand p).width ≤ (if p = 0 then tilesState.opr.tileWidth.toNat else (tilesState.opr.tileWidth.toNat + 3) / 4) ∧
      0 < (tilesBand p).height ∧ (tilesBand p).height
        ≤ (if p = 0 then tilesState.opr.tileHeight.toNat else (tilesState.opr.tileHeight.toNat + 3) / 4) ∧
      (tilesBand p).mbSize ≠ 0 ∧
      ceilDiv (tilesBand p).width (tilesBand p).mbSize * ceilDiv (tilesBand p).height (tilesBand p).mbSize
        = ceilDiv (tilesBand 0).width (tilesBand 0).mbSize * ceilDiv (tilesBand 0).height (tilesBand 0).mbSize := by decide

theorem witness_TilesPartition : 0 < 1 ∧ 15 < (luma 0).width ∧ 15 < (luma 0).height := by decide

/-! Headers. -/

theorem witness_PicHeaderCompletes_indeo4 :
    (let s := bound p4 3 [(0x3FFF8, 18), (5, 3), (0, 1), (0, 1), (0, 1)]
     s.bound = true ∧ s.params.codec = .indeo4 ∧ streamHas s 24 ∧ field s 0 18 = 0x3FFF8 ∧
       field s 18 3 = (5 : BitVec 3).toNat ∧ field s 22 1 = 0 ∧ field s 23 1 = 0) ∧
    (let s := bound p4 6 [(0x3FFF8, 18), (6, 3), (1, 1), (0, 1), (1, 1), (0xABCDEF, 24)]
     s.bound = true ∧ s.params.codec = .indeo4 ∧ streamHas s 48 ∧ field s 0 18 = 0x3FFF8 ∧
       field s 18 3 = (6 : BitVec 3).toNat ∧ field s 22 1 = 0 ∧ field s 23 1 = 1) := by decide

/-- An INDEO4 picture header of `w * h` samples. -/
def picBits (ft w h : Nat) : List (Nat × Nat) :=
  [(0x3FFF8, 18), (ft, 3), (1, 1), (0, 3), (7, 3), (h, 16), (w, 16), (0, 3), (3, 2), (3, 2), (0, 5), (1, 1), (0, 1),
   (21, 5), (0, 9)]

def picState (w h : Nat) : State := { engine p4 1 (chunk 11 (picBits 3 w h)) with picConf := confOf 16 16 1 1 }

/-- The bits that both INDEO4 headers below share. -/
abbrev picBitsAsAsked (s : State) (w h : Nat) : Prop :=
  s.bound = true ∧ s.params.codec = .indeo4 ∧ streamHas s 83 ∧ field s 0 18 = 0x3FFF8 ∧
    field s 18 3 = (3 : BitVec 3).toNat ∧ (∀ k ∈ [22, 23, 24, 60, 67, 68, 69, 70, 71, 79, 80, 81], field s k 1 = 0) ∧
    field s 25 3 = 7 ∧ field s 61 2 = 0 ∧ field s 63 2 = 3 ∧ field s 65 2 = 3 ∧ s.params.huffNotCoded = .reuse ∧
    within s (aligned (s.br.index + 83)) ∧ field s 44 16 = w ∧ field s 28 16 = h

/-- The cached configuration. -/
theorem witness_PicHeaderCompletes_cached :
    let s := picState 16 16
    picBitsAsAsked s 16 16 ∧ s.picConf = confOf 16 16 1 1 ∧ s.alloc = .allocated ∧ s.planes[0].bands = [luma 0] ∧
    s.planes[1].bands = [chroma 1] ∧ s.planes[2].bands = [chroma 2] ∧ (luma 0).width = 16 ∧ (luma 0).height = 16 ∧
    (∀ p : Nat, (chroma p).width = 4 ∧ (chroma p).height = 4) ∧ ceilDiv 16 16 * ceilDiv 16 16 = ceilDiv 4 4 * ceilDiv 4 4 :=
  ⟨by decide +kernel, rfl, rfl, rfl, rfl, rfl, by decide, by decide, fun _ => ⟨rfl, rfl⟩, by decide⟩

/-- A new configuration of 20 by 12 samples: 2 macroblocks in each plane. -/
theorem witness_PicHeaderCompletes_new :
    let s := picState 20 12
    let v := after .initplanes
      { s with opr := { s.opr with cfg := confOf 20 12 1 1 }, hdr := { s.hdr with isScalable := false } }
    picBitsAsAsked s 20 12 ∧ s.picConf ≠ confOf 20 12 1 1 ∧
    succeeds .initplanes
      { s with opr := { s.opr with cfg := confOf 20 12 1 1 }, hdr := { s.hdr with isScalable := false } } ∧
    (v.planes.toList.map fun pl => pl.bands.map fun bd => (bd.width, bd.height)) = [[(20, 12)], [(5, 3)], [(5, 3)]] ∧
    ceilDiv 20 16 * ceilDiv 12 16 = ceilDiv 5 4 * ceilDiv 3 4 := by decide +kernel

theorem witness_PicHeaderCompletes_indeo5 :
    (let s := bound p5 2 [(0x1F, 5), (4, 3), (7, 8)]
     s.bound = true ∧ s.params.codec = .indeo5 ∧ streamHas s 16 ∧ field s 0 5 = 0x1F ∧ field s 5 3 = 4 ∧
       within s (aligned (s.br.index + 16))) ∧
    (∀ ft ∈ [(1 : BitVec 3), 3, 2], let s := bound p5 4 [(0x1F, 5), (ft.toNat, 3), (7, 8), (0, 8)]
     s.bound = true ∧ s.params.codec = .indeo5 ∧ streamHas s 16 ∧ field s 0 5 = 0x1F ∧ field s 5 3 = ft.toNat ∧
       streamHas s 27 ∧ field s 16 8 = 0 ∧ within s (aligned (s.br.index + 27)) ∧ s.hdr.isScalable = false) := by decide

/-- INTER_SCAL in a scalable stream. -/
theorem witness_PicHeaderCompletes_scalable :
    let s : State := { bound p5 4 [(0x1F, 5), (2, 3), (7, 8), (0, 8)] with hdr := { Header.zero with isScalable := true } }
    s.hdr.isScalable = true ∧ field s 5 3 = (2 : BitVec 3).toNat ∧ streamHas s 27 ∧ field s 16 8 = 0 ∧
    within s (aligned (s.br.index + 27)) := by decide

theorem witness_BandHeaderCompletes :
    (let s := engine p5 1 [1]
     s.bound = true ∧ s.band? 0 0 = some (luma 0) ∧ s.params.codec = .indeo5 ∧ streamHas s 8 ∧ field s 0 8 % 2 = 1) ∧
    (let s := engine p5 1 (chunk 2 [(0, 8), (0, 1), (31, 5)])
     s.band? 0 0 = some (luma 0) ∧ s.params.huffNotCoded = .reuse ∧ streamHas s 14 ∧ field s 0 8 = 0 ∧
       s.hdr.frameFlags.getLsbD 7 = false ∧ field s 8 1 = 0 ∧ within s (aligned (s.br.index + 14))) := by decide

theorem witness_BandHeaderCompletes_indeo4 :
    (let s := engine p4 1 (chunk 1 [(0, 2), (0, 4), (1, 1)])
     s.band? 0 0 = some (luma 0) ∧ s.params.codec = .indeo4 ∧ streamHas s 7 ∧ field s 0 2 = 0 ∧ field s 2 4 = 0 ∧
       field s 6 1 = 1 ∧ (luma 0).scan ≠ none ∧ within s (aligned (s.br.index + 7)) ∧
       s.params.quant4.indexToTab[(luma 0).quantMat.toNat]? = some 0 ∧ (luma 0).blkSize = 8) ∧
    (let s := engine p4 1 (chunk 1 [(1, 2), (0, 4), (1, 1)])
     s.band? 1 0 = some (chroma 1) ∧ streamHas s 7 ∧ field s 0 2 = 1 ∧ field s 2 4 = 0 ∧ field s 6 1 = 1 ∧
       (chroma 1).scan ≠ none ∧ within s (aligned (s.br.index + 7)) ∧
       s.params.quant4.indexToTab[(chroma 1).quantMat.toNat]? = some 0 ∧ (0 : Fin 6).val < 5 ∧
       (chroma 1).blkSize = 4) := by decide

/-- The headers of a band of 8 by 8 blocks (SLANTCOL8, scan 4) and of one of 4 by 4 blocks (HAAR4, scan 9). -/
theorem witness_BandHeaderCompletes_selected :
    ∀ e ∈ [(0, 1, (6, InvTx.slantcol8, DcTx.dccolslant8, 8), 4, true), (1, 2, (10, .haar4, .dchaar4, 4), 9, true)],
      let s := engine p4 1 (chunk 5 [(e.1, 2), (0, 4), (0, 1), (0, 1), (1, 2), (0, 1), (e.2.1, 2), (1, 1), (0, 1), (17, 5),
        (0, 1), (e.2.2.1.1, 5), (e.2.2.2.1, 4), (0, 5), (0, 3)])
      let blk := if field s 11 2 = 2 then 4 else 8
      s.bound = true ∧ (s.band? e.1 0).isSome = true ∧ e.2.2.1 ∈ transforms4 ∧ s.params.codec = .indeo4 ∧
      streamHas s 38 ∧ field s 0 2 = e.1 ∧ field s 2 4 = 0 ∧ field s 6 1 = 0 ∧ field s 7 1 = 0 ∧
      field s 8 2 = true.toNat ∧ field s 10 1 = 0 ∧ field s 11 2 = e.2.1 ∧ e.2.1 < 3 ∧ field s 13 1 = true.toNat ∧
      field s 14 1 = false.toNat ∧ field s 20 1 = 0 ∧ field s 21 5 = e.2.2.1.1 ∧ e.2.2.1.2.2.2 = blk ∧
      (blk = 4 ↔ 5 ≤ field s 26 4 ∧ field s 26 4 ≤ 9) ∧ (s.params.scans4[field s 26 4]?).isSome = true ∧
      s.params.is2d4[e.2.2.1.1]? = some e.2.2.2.2 ∧ field s 30 5 ≠ 31 ∧
      s.params.quant4.indexToTab[field s 30 5]? = some 0 ∧ (0 : Fin 6).val < 5 ∧ field s 35 1 = 0 ∧ field s 36 1 = 0 ∧
      field s 37 1 = 0 ∧ within s (aligned (s.br.index + 38)) := by decide +kernel

/-- A GOP header of 16 by 16 samples. -/
def gopBits : List (Nat × Nat) := [(0, 11), (15, 4), (16, 13), (16, 13), (1, 1), (0, 5), (0, 1), (1, 1), (1, 1)]

/-- An INDEO5 engine of 16 by 16 samples at a GOP header of that configuration. -/
def gopState : State :=
  { engine p5 1 (chunk 10 gopBits) with
    picConf := confOf 16 16 1 1 }

theorem witness_GopHeaderSelects :
    gopState.bound = true ∧ gopState.hdr.gopInvalid = false ∧ gopState.band? 0 0 = some (luma 0) ∧
    gopState.band? 1 0 = some (chroma 1) ∧ gopState.band? 2 0 = some (chroma 2) ∧
    aligned (gopState.br.index + 53) - gopState.br.index = 56 ∧ streamHas gopState 80 ∧ field gopState 0 8 = 0 ∧
    field gopState 8 2 = 0 ∧ field gopState 10 1 = 0 ∧ field gopState 11 4 = 15 ∧ field gopState 28 13 = 16 ∧
    field gopState 15 13 = 16 ∧ gopState.picConf = confOf (BitVec.ofNat 16 16) (BitVec.ofNat 16 16) 1 1 ∧
    field gopState 41 1 = true.toNat ∧ field gopState 42 1 = false.toNat ∧ field gopState 43 1 = 0 ∧
    field gopState 44 1 = 0 ∧ field gopState 45 2 = 0 ∧ field gopState 47 1 = false.toNat ∧
    field gopState 48 1 = true.toNat ∧ field gopState 49 1 = 1 ∧ field gopState 50 1 = 0 ∧ field gopState 51 2 = 0 ∧
    (chroma 1).blkSize = 4 ∧ (chroma 1).mbSize = (if true then 4 else 8) ∧ field gopState 79 1 = 0 ∧
    within gopState (aligned (gopState.br.index + 80)) := by decide

/-- An INTRA header that runs that GOP header, and one whose chunk ends in it. -/
theorem witness_PicHeaderCompletes_intra :
    let after16 := fun s : State => { s with
      br := atBit s (s.br.index + 16), prevFrameType := s.frameType, frameType := 0
      hdr := { s.hdr with frameNum := BitVec.ofNat 20 (field s 8 8) } }
    let s : State := { gopState with br := ⟨some ([0x1F, 7] ++ chunk 14 gopBits), 128, 0⟩ }
    let cut : State := { gopState with br := ⟨some [0x1F, 7, 0], 24, 0⟩, params := { p5 with padBits := 0 } }
    (s.bound = true ∧ s.params.codec = .indeo5 ∧ streamHas s 16 ∧ field s 0 5 = 0x1F ∧ field s 5 3 = 0 ∧
      succeeds .gophdr (after16 s) ∧ s.params.huffNotCoded = .reuse ∧
      (let g := after .gophdr (after16 s)
       streamHas g 11 ∧ field g 0 8 = 0 ∧ within g (aligned (g.br.index + 11)))) ∧
    (streamHas cut 16 ∧ field cut 0 5 = 0x1F ∧ field cut 5 3 = 0 ∧ answers .gophdr (after16 cut) = true ∧
      (after .gophdr (after16 cut)).err ≠ .none) := by decide +kernel

/-! Rotation, frames, output. -/

def framesState (p : Params) (prev cur : BitVec 3) : State := { State.resetWith p with prevFrameType := prev, frameType := cur }

theorem witness_RotationRule :
    (framesState p4 2 0).params.codec = .indeo4 ∧ (framesState p4 2 0).params.rotate4 = .standard ∧
    (framesState p4 2 0).prevFrameType = 2 ∧
    (framesState p4 0 3).frameType = 3 ∧ (framesState p4 3 3).prevFrameType = 3 ∧
    (framesState p5 1 0).params.codec = .indeo5 ∧ (framesState p5 1 0).params.rotate5 = .standard ∧
    (framesState p5 1 0).prevFrameType = 1 ∧
    (framesState p5 2 1).prevFrameType = 2 ∧ (framesState p5 3 2).prevFrameType.toNat = 3 ∧
    2 ≤ (framesState p5 3 2).frameType.toNat ∧ (framesState { p4 with rotate4 := .other 0 } 0 0).params.rotate4 = .other 0 ∧
    (framesState { p5 with rotate5 := .other 0 } 0 0).params.rotate5 = .other 0 := by decide

theorem witness_RotationSequences :
    p5.codec = .indeo5 ∧ p5.rotate5 = .standard ∧ p4.codec = .indeo4 ∧ p4.rotate4 = .standard ∧
    (∃ r, r ∈ rotations p5 0 Rotation.reset [0, 1]) ∧ ∃ r, r ∈ rotations p4 0 Rotation.reset [3] :=
  ⟨rfl, rfl, rfl, rfl, ⟨_, .head _⟩, ⟨_, .head _⟩⟩

def frameOpr (mode : FrameMode) (bytes : List Byte) : Opr :=
  { Opr.zero with chunk := bytes, len := bytes.length, mode := mode }

theorem witness_FrameBindAndNull :
    (withOpr State.reset (frameOpr .bind [1])).opr.mode = .bind ∧
    (let s := withOpr (engine p5 1 [0]) (frameOpr .full [0x9F, 7])
     let s0 : State := { s with br := ⟨some s.opr.chunk, 8 * s.opr.len, 0⟩ }
     s.opr.mode = .full ∧ s.params.codec = .indeo5 ∧ streamHas s0 16 ∧ field s0 0 5 = 0x1F ∧ field s0 5 3 = 4 ∧
       s.hdr.gopInvalid = false ∧ s.hdr.gopFlags.getLsbD 5 = false ∧ s.alloc = .allocated ∧ s.hdr.isScalable = false ∧
       (∀ p : Fin 3, (s.band? p 0).map Band.buf = some (some 0)) ∧
       s.bufInvalid[(advance s.params s.frameType 4 s.rot).dstBuf] = false) ∧
    (let s := withOpr State.reset (frameOpr .full (chunk 3 [(0x3FFF8, 18), (6, 3)]))
     let s0 : State := { s with br := ⟨some s.opr.chunk, 8 * s.opr.len, 0⟩ }
     s.opr.mode = .full ∧ s.params.codec = .indeo4 ∧ streamHas s0 24 ∧ field s0 0 18 = 0x3FFF8 ∧ field s0 18 3 = 6 ∧
       field s0 22 1 = 0 ∧ field s0 23 1 = 0 ∧ s.hdr.gopInvalid = false) := by decide

/-- An INDEO4 frame of three empty bands, the last band's number at the last place. -/
def frameState (last : Nat) : State :=
  withOpr { engine p4 1 [0] with picConf := confOf 16 16 1 1 }
    (frameOpr .full (chunk 14
      (picBits 2 16 16 ++ [(0, 2), (0, 4), (1, 2), (1, 2), (0, 4), (1, 2), (last, 2), (0, 4), (1, 2)])))

/-- The state before the bands of that frame. -/
def begunState (s : State) : State :=
  let h := after .pichdr { s with br := ⟨some s.opr.chunk, 8 * s.opr.len, 0⟩, frameAborted := false }
  let rot := advance s.params h.prevFrameType h.frameType h.rot
  { h with rot := rot, bufInvalid := h.bufInvalid.set rot.dstBuf true, fstep := .bands, err := s.err }

/-- What the statement asks of the picture header. -/
abbrev frameReady (s : State) : Prop :=
  let s0 : State := { s with br := ⟨some s.opr.chunk, 8 * s.opr.len, 0⟩, frameAborted := false }
  let h := after .pichdr s0
  s.opr.mode = .full ∧ succeeds .pichdr s0 ∧ h.hdr.gopInvalid = false ∧ h.hdr.gopFlags.getLsbD 5 = false ∧
    h.alloc = .allocated ∧ s.params.codec = .indeo4 ∧ h.frameType.toNat < 5 ∧ h.hdr.isScalable = false

/-- The state after the bands, and whether they raised. -/
def bandsEnd (s : State) : Bool × State :=
  match forEach frameBands [0, 1, 2] s with
  | .ok () d => (true, d)
  | .error _ d => (false, d)

/-- The destination buffer is marked valid. -/
def validState (d : State) : State := { d with bufInvalid := d.bufInvalid.set d.rot.dstBuf false }

/-- The state when the output commands begin. -/
def decodedState : State := validState (bandsEnd (begunState (frameState 2))).2

theorem witness_FrameBindAndNull_coded :
    frameReady (frameState 2) ∧ (bandsEnd (begunState (frameState 2))).1 = true := by decide +kernel

theorem witness_FrameBindAndNull_output :
    succeeds (.outplane 0 0) decodedState ∧ succeeds (.outplane 2 0) (after (.outplane 0 0) decodedState) ∧
    succeeds (.outplane 1 0) (after (.outplane 2 0) (after (.outplane 0 0) decodedState)) := by decide +kernel

/-- A band that names another plane aborts the frame. -/
theorem witness_FrameBindAndNull_aborted :
    frameReady (frameState 1) ∧ (bandsEnd (begunState (frameState 1))).1 = false := by decide +kernel

theorem witness_FrameAbortRule : State.reset.opr.mode = .full := by decide

theorem witness_CommandFrames :
    Instr.bitsleft ≠ .decframe ∧ Instr.bitsleft ≠ .reset ∧ Instr.bitsleft ≠ .switchbuf ∧ writesOut .bitsleft = false ∧
    writesArena .bitsleft = false ∧ movesCursor .initplanes = false := by decide

theorem witness_OutPlanePixels :
    flatState.plane? (1 : BitVec 2).toNat = some ⟨4, 4, [chroma 1]⟩ ∧
    flatState.band? (1 : BitVec 2).toNat 0 = some (chroma 1) ∧ (chroma 1).buf = some 0 ∧
    flatState.hasBuffer (1 : BitVec 2).toNat 0 0 = true ∧ (chroma 1).pitch = 8 ∧ (chroma 1).aheight = 8 ∧
    (∀ x y, x < 4 → y < 4 → y * 8 + x < 8 * 8) ∧
    (State.band? (flatState.updBand 1 0 fun bd => { bd with buf := none }) 1 0).map Band.buf = some none :=
  ⟨by decide, by decide, by decide, by decide, by decide, by decide, by omega, by decide⟩

theorem witness_RecompPixels :
    let s := engine p4 4 [0]
    s.params.recomp53 = .standard ∧ s.planes[0].bands = [luma 0, luma 1, luma 2, luma 3] ∧ (∀ k : Fin 4, (luma k).buf = some 0) ∧
    (∀ k : Fin 4, s.hasBuffer 0 k 0 = true) ∧ s.planes[0].width.toNat = 16 ∧ s.planes[0].height.toNat = 16 ∧
    (∀ k : Fin 4, (luma k).pitch = 16 ∧ (luma k).aheight = 16) ∧
    (∀ i j, i < (16 + 1) / 2 → j < (16 + 1) / 2 → j * 16 + i < 16 * 16) :=
  ⟨rfl, by decide, by decide, by decide, by decide, by decide, by decide, by omega⟩

/-! Invariants. -/

theorem witness_ResetMeetsInvariants :
    p4.predefMbDesc = defaultMbDesc ∧ p4.predefBlkDesc = defaultBlkDesc ∧ 13 ≤ p4.maxCodeLenIvi := ⟨rfl, rfl, by decide⟩

/-- Each case of the block tables: another place, another descriptor at place 7, and TRUNCATE. -/
theorem witness_ResetMeetsInvariants_built :
    (6 : Fin 8) ≠ 7 ∧ descSame descMany defaultBlkDesc[7] = false ∧
    ({ p4 with over256 := .truncate } : Params).over256 = .truncate := by decide

/-- Another descriptor of more than 256 codes gives no predefined table under P_OVER256 = ERROR. -/
theorem test_predef_other :
    let p : Params := { p4 with
      predefMbDesc := Vector.replicate 8 descMany, predefBlkDesc := Vector.replicate 8 descMany }
    p.over256 = .error ∧ (State.resetWith p).predefMb[(7 : Fin 8)] = none ∧
    (State.resetWith p).predefBlk[(7 : Fin 8)] = none := by decide +kernel

/-- V-FE-4: after a failed INITPLANES the bands are absent, so a transform and OUTPLANE find none. -/
theorem test_initplanes_fails :
    let t := after .initplanes (still (blockOpr 0 0 0 2))
    t.err = .allocFail ∧ t.alloc = .uninit ∧ t.band? 0 0 = none ∧ t.hasBuffer 0 0 0 = false ∧
    (after .dchaar8 t).err = .badState ∧ (after (.outplane 0 0) t).err = .badState := by decide

/-- Another rotation: the destination is no reference. -/
theorem test_other_rotation :
    (Rotation.apart .indeo4 ⟨false, 2, 2, 2, 2, false⟩ = ⟨false, 2, 3, 2, 0, false⟩) ∧
    Rotation.apart .indeo5 ⟨false, 3, 3, 2, 3, true⟩ = ⟨false, 3, 0, 2, 3, true⟩ := by decide

/-- The last default descriptor has 264 codes and keeps 256 (log 42). -/
theorem test_predef_last :
    ((descRows defaultBlkDesc[7]).map fun x => 2 ^ x).sum = 264 ∧
    (match buildRows .truncate p4.maxCodeLenIvi 0 (descRows defaultBlkDesc[7]) 0 with
      | .ok codes => codes.length
      | .error _ => 0) = 256 := by decide +kernel

/-- An allocated engine with ALIGN at the port. -/
def alignState (p : Params) : State := { engine p 1 [1] with port := [⟨0x28000000, Opr.zero⟩] }

theorem witness_StepKeepsMemory : (alignState p4).MemoryOk ∧ ∃ t, step (alignState p4) = .next t := ⟨by decide, _, rfl⟩

theorem witness_StepKeepsCursor : (alignState p4).CursorOk ∧ ∃ t, step (alignState p4) = .next t :=
  ⟨by unfold State.CursorOk; decide, _, rfl⟩

theorem witness_StepKeepsTables :
    State.TablesOk { alignState p4 with rvmaps := p4.rvmaps } ∧
    ∃ t, step { alignState p4 with rvmaps := p4.rvmaps } = .next t := ⟨⟨rfl, rfl, rfl⟩, _, rfl⟩

theorem witness_StepKeepsRegisters :
    (alignState p4).RotationOk ∧ (alignState p4).params.codec = .indeo4 ∧ (alignState p4).IdleOk ∧
    ∃ t, step (alignState p4) = .next t :=
  ⟨by unfold State.RotationOk; decide, rfl, rfl, _, rfl⟩

theorem witness_StepKeepsGeometry : (alignState p4).GeometryOk ∧ ∃ t, step (alignState p4) = .next t := by
  refine ⟨⟨fun p b bd h => ?_, fun b x y hx hy => ?_⟩, _, rfl⟩
  · match p, b with
    | 0, 0 => obtain rfl : luma 0 = bd := Option.some.inj h; unfold Band.GeometryOk; decide
    | 1, 0 => obtain rfl : chroma 1 = bd := Option.some.inj h; unfold Band.GeometryOk; decide
    | 2, 0 => obtain rfl : chroma 2 = bd := Option.some.inj h; unfold Band.GeometryOk; decide
    | 0, b + 1 | 1, b + 1 | 2, b + 1 | p + 3, b => simp [State.band?, State.plane?, alignState, engine] at h
  · match b with
    | 0 =>
      obtain rfl : chroma 1 = x := Option.some.inj hx
      obtain rfl : chroma 2 = y := Option.some.inj hy
      decide
    | b + 1 => simp [State.band?, State.plane?, alignState, engine] at hx

/-! ### Single steps, with the results of 95_test_vectors.md -/

/-- Stream X with the cursor at a bit. -/
def streamX (i : Nat) : State := { State.reset with br := ⟨some [0xB4, 0x3C, 0xFF, 0x00], 32, i⟩ }

/-- V-BR-2, V-BR-3, V-BR-5. -/
theorem test_reads_unsigned :
    (after (.getbits 25) (streamX 0)).res = 0x0FF3CB4 ∧ (after (.getbits 25) (streamX 0)).br.index = 25 ∧
    (after (.getbitslong 16) (streamX 0)).res = 0x3CB4 ∧ (after (.getbits64 24) (streamX 0)).res = 0xFF3CB4 := by decide

/-- V-BR-6, V-BR-9. -/
theorem test_reads_signed :
    (after (.getsbits 5) (streamX 0)).res = -12 ∧ (after (.getsbitslong 16) (streamX 8)).res = -196 ∧
    (after (.getsbitslong 16) (streamX 8)).br.index = 24 := by decide

/-- V-BR-10, V-BR-11, V-BR-13, V-BR-15, V-BR-18. -/
theorem test_cursor :
    (after (.showbits 3) (streamX 0)).res = 4 ∧ (after (.showbits 3) (streamX 0)).br.index = 0 ∧
    (after .align (streamX 5)).br.index = 8 ∧ (after (.skipbits 3) (streamX 0)).br.index = 3 ∧
    (after .bitsleft (streamX 5)).res = 27 ∧ (after .bitsleft (streamX 40)).res = -8 := by decide

/-- V-BR-16, V-BR-17, V-BR-19. -/
theorem test_padding :
    (after (.getbits 4) (streamX 540)).br.index = 544 ∧ (after (.getbits 5) (streamX 540)).err = .brOverrun ∧
    (after (.getbits 5) (streamX 540)).br.index = 540 ∧ (after .bitscount State.reset).err = .badState := by decide

/-- V-VLC-15, V-VLC-16, V-VLC-17: the codes 0, 10, 11 in a table of 1 index bit, over the bits 1, 0. -/
theorem test_getvlc2_depth :
    let s := coded [(1, 2)] ⟨1, table3.codes⟩
    (after (.getvlc2 48 1 1) s).err = .vlcDepth ∧ (after (.getvlc2 48 1 1) s).br.index = 0 ∧
    (after (.getvlc2 48 2 1) s).res = 1 ∧ (after (.getvlc2 48 2 1) s).br.index = 2 := by decide

/-- V-VLC-5: the one code 0, over the bit 1. -/
theorem test_getvlc2_empty :
    huffBuild p4 ⟨1, Vector.replicate 16 0⟩ = .ok ⟨13, [⟨[false], 0⟩]⟩ ∧
    (after (.getvlc2 48 1 13) (coded [(1, 1)] ⟨13, [⟨[false], 0⟩]⟩)).res = -1 := by decide

/-- V-DQ-1, V-DQ-2, V-DQ-3. -/
theorem test_dequant :
    (after .dequant (still { Opr.zero with intra := true, val := -3, quant := 40 })).res = -16 ∧
    (after .dequant (still { Opr.zero with intra := true, val := 2, quant := 40 })).res = 11 ∧
    (after .dequant (still { Opr.zero with intra := true, val := 0, quant := 40 })).res = -1 := by decide

/-- V-TX-4, V-TX-6: one sample of the block. -/
theorem test_dc_transforms :
    (after .dchaar4 (still { blockOpr 0 0 0 2 with dc := 8 })).sample 0 0 0 17 = 1 ∧
    (after .dcslant4 (still { blockOpr 0 0 0 2 with dc := 5 })).sample 0 0 0 51 = 3 := by decide

/-- The first row of V-TX-17: SLANT4 of 4, 4 in the first row. -/
theorem test_slant4 :
    let s := still { blockOpr 0 0 0 2 with
      coefs := (dcOnly 4).set 1 4, flags := firstColumn.set 1 true }
    ((List.range 4).map fun c => ((after .slant4 s).sample 0 0 0 c).toInt) = [5, 3, 2, -1] := by decide

/-- V-MC-1, and the rows 1 and 2 of a type-3 prediction by hand: (0 + 0 + 0 + 7) >> 2, then 7 over its neighbours. -/
theorem test_mc4nd :
    (after (.mc4nd 0) (still (blockOpr 0 0 0 2))).sample 0 0 0 17 = 7 ∧
    (after (.mc4nd 3) (still (blockOpr 0 0 0 2))).sample 0 0 0 0 = 3 ∧
    (after (.mc4nd 3) (still (blockOpr 0 0 0 2))).sample 0 0 0 17 = 1 := by decide

/-- The state after a step. -/
def stepped (s : State) : State :=
  match step s with
  | .next t => t
  | _ => s

/-- V-ENC-21, V-ENC-22 as steps: a reserved word and a reserved field value change `STATUS.ERR` and no more. -/
theorem test_illegal_commands :
    (stepped (portState 0xFC000001)).err = .illegalCommand ∧ (stepped (portState 0xFC000001)).res = 0 ∧
    (stepped (portState 0x0400001A)).err = .illegalCommand ∧
    (stepped (portState 0x0400001A)).br = State.reset.br := by decide

end Sys2Proof.Tests
end

section
/-! SUPPORT. The writes a program may make, as one relation between states, and what every such write leaves unchanged.
A program is `Limited w` when it makes only writes that the grants `w` allow; invariants and frames then follow by cases
on `Write`, and no proof of one walks through the programs again. -/

namespace Sys2Proof.Machine

variable {α β γ : Type}

/-! ### The writes -/

/-- The parts of the state that only some programs write: the cursor (10_state.md R34), the band arena (20_memory.md
R84), the output planes (R85), the rotation (10_state.md R36) and the sequencer with the frame flags (R32, R33, R37). -/
structure Grants where
  cursor : Bool := false
  arena : Bool := false
  output : Bool := false
  rotation : Bool := false
  sequencer : Bool := false

/-- Everything a frame may write. -/
def Grants.all : Grants := ⟨true, true, true, true, true⟩

/-- The dimensions of a band that INITPLANES gives it (45_frame_engine.md R314). -/
def Band.dims (bd : Band) : Nat × Nat × Nat × Nat := (bd.width, bd.height, bd.pitch, bd.aheight)

/-- One write of a program with the grants `w`. No write reaches the parameters, the predefined tables, the run-value
maps, the bound chunk or the host's fields. The conditions on a write are those that the cursor's bound (10_state.md
R34), the geometry of the bands (45_frame_engine.md R314) and the canonical form of the memory (20_memory.md R83 to R85)
rest on. -/
inductive Write (w : Grants) : State → State → Prop
  | err (s : State) (e : ErrKind) : Write w s { s with err := e }
  | res (s : State) (v : BitVec 64) : Write w s { s with res := v }
  | draws (s : State) (d : Nat) : Write w s { s with draws := d }
  | scratch (s : State) (c : Scratch) : Write w s { s with scratch := c }
  | hdr (s : State) (h : Header) : Write w s { s with hdr := h }
  | prevFrameType (s : State) (ft : BitVec 3) : Write w s { s with prevFrameType := ft }
  | frameType (s : State) (ft : BitVec 3) : Write w s { s with frameType := ft }
  | mbVlc (s : State) (h : HuffTab) : Write w s { s with mbVlc := h }
  | blkVlc (s : State) (h : HuffTab) : Write w s { s with blkVlc := h }
  | slot48 (s : State) (t : Option VlcTable) : Write w s { s with slot48 := t }
  | config (s : State) (cfg : PicConf) : Write w s { s with picConf := cfg, alloc := .allocated }
  | band (s : State) (p b : Nat) (f : Band → Band) (hf : ∀ bd, (f bd).dims = bd.dims) : Write w s (s.updBand p b f)
  | chroma (s : State) (b : Nat) (src : Band) (h : s.band? 1 b = some src) :
      Write w s (s.updBand 2 b (copyGopFields src))
  | defaultSizes (s : State) : Write w s s.setDefaultSizes
  | move (s : State) (n : Nat) (hc : w.cursor = true) (h : s.avail n = true) : Write w s (s.moved n)
  | allocate (s : State) (cfg : PicConf) (ha : w.arena = true) (h : configFits cfg = true) : Write w s (s.allocate cfg)
  | deallocate (s : State) (ha : w.arena = true) : Write w s s.deallocate
  | buffer (s : State) (p b k : Nat) (buf : Buf) (ha : w.arena = true)
      (h : bufWf (s.bufferOf p b k) = true → bufWf buf = true) : Write w s (s.setBuffer p b k buf)
  | output (s : State) (t : Fin 3) (stores : List (Nat × Byte)) (ho : w.output = true) :
      Write w s (s.setOut t (storeBytes (s.outPlane t) stores))
  | rotate (s : State) (hr : w.rotation = true) : Write w s s.switchBuf
  | fstep (s : State) (f : FStep) (hs : w.sequencer = true) : Write w s { s with fstep := f }
  | frameAborted (s : State) (v : Bool) (hs : w.sequencer = true) : Write w s { s with frameAborted := v }
  | outValid (s : State) (v : Bool) (hs : w.sequencer = true) : Write w s { s with outValid := v }
  | bufInvalid (s : State) (v : Vector Bool 4) (hs : w.sequencer = true) : Write w s { s with bufInvalid := v }

/-- Writes one after the other. -/
abbrev Writes (w : Grants) : State → State → Prop := Relation.ReflTransGen (Write w)

theorem Write.writes {w : Grants} {s t : State} (h : Write w s t) : Writes w s t := .single h

theorem Writes.chains (w : Grants) : Chains (Writes w) := ⟨fun _ => .refl, .trans⟩

variable {w : Grants} {s t : State}

/-- What every write leaves unchanged, writes leave unchanged. -/
theorem Writes.same (f : State → γ) (hf : ∀ s t, Write w s t → f t = f s) (h : Writes w s t) : f t = f s := by
  induction h with
  | refl => rfl
  | tail _ hw ih => exact (hf _ _ hw).trans ih

/-- What every write keeps true, writes keep true. -/
theorem Writes.keeps (P : State → Prop) (hP : ∀ s t, Write w s t → P s → P t) (h : Writes w s t) (hs : P s) : P t := by
  induction h with
  | refl => exact hs
  | tail _ hw ih => exact hP _ _ hw ih

/-! ### What no write reaches -/

namespace Writes

theorem params (h : Writes w s t) : t.params = s.params := h.same State.params fun _ _ h => by cases h <;> rfl

theorem predefMb (h : Writes w s t) : t.predefMb = s.predefMb := h.same State.predefMb fun _ _ h => by cases h <;> rfl

theorem predefBlk (h : Writes w s t) : t.predefBlk = s.predefBlk :=
  h.same State.predefBlk fun _ _ h => by cases h <;> rfl

theorem rvmaps (h : Writes w s t) : t.rvmaps = s.rvmaps := h.same State.rvmaps fun _ _ h => by cases h <;> rfl

theorem port (h : Writes w s t) : t.port = s.port := h.same State.port fun _ _ h => by cases h <;> rfl

theorem opr (h : Writes w s t) : t.opr = s.opr := h.same State.opr fun _ _ h => by cases h <;> rfl

theorem outPitch (h : Writes w s t) : t.outPitch = s.outPitch := h.same State.outPitch fun _ _ h => by cases h <;> rfl

/-! ### What a write reaches only with its grant -/

theorem br (hc : w.cursor = false) (h : Writes w s t) : t.br = s.br :=
  h.same State.br fun _ _ h => by
    cases h with
    | move _ h => exact absurd h (by simp [hc])
    | _ => rfl

theorem arena (ha : w.arena = false) (h : Writes w s t) : t.mem.arena = s.mem.arena :=
  h.same (fun s => s.mem.arena) fun _ _ h => by
    cases h with
    | allocate _ h | deallocate h | buffer _ _ _ _ h => exact absurd h (by simp [ha])
    | _ => rfl

theorem out (ho : w.output = false) (h : Writes w s t) : t.mem.out = s.mem.out :=
  h.same (fun s => s.mem.out) fun _ _ h => by
    cases h with
    | output _ _ h => exact absurd h (by simp [ho])
    | _ => rfl

theorem rot (hr : w.rotation = false) (h : Writes w s t) : t.rot = s.rot :=
  h.same State.rot fun _ _ h => by
    cases h with
    | rotate h => exact absurd h (by simp [hr])
    | _ => rfl

theorem sequencer (hs : w.sequencer = false) (h : Writes w s t) :
    t.fstep = s.fstep ∧ t.frameAborted = s.frameAborted ∧ t.outValid = s.outValid ∧ t.bufInvalid = s.bufInvalid := by
  have key := h.same (fun s => (s.fstep, s.frameAborted, s.outValid, s.bufInvalid)) fun _ _ h => by
    cases h with
    | fstep _ h | frameAborted _ h | outValid _ h | bufInvalid _ h => exact absurd h (by simp [hs])
    | _ => rfl
  simpa using key

/-! ### What writes keep -/

/-- A move of the cursor is a read within the padding (40_bitreader.md R140, R141). -/
theorem cursorOk (h : Writes w s t) (hs : s.CursorOk) : t.CursorOk :=
  h.keeps State.CursorOk (fun _ _ h hs => by
    cases h with
    | move _ _ ha => exact State.avail_iff.mp ha
    | _ => exact hs) hs

theorem tablesOk (h : Writes w s t) (hs : s.TablesOk) : t.TablesOk := by
  obtain ⟨hmb, hblk, hrv⟩ := hs
  exact ⟨by rw [h.predefMb, h.params, hmb], by rw [h.predefBlk, h.params, hblk], by rw [h.rvmaps, h.params, hrv]⟩

end Writes

/-- A write is the same write when the run-value maps are others: none depends on them. -/
theorem Write.withRvmaps (m : Vector RvMap 9) (h : Write w s t) :
    Write w { s with rvmaps := m } { t with rvmaps := m } := by
  cases h with
  | err e => exact .err _ e
  | res v => exact .res _ v
  | draws d => exact .draws _ d
  | scratch c => exact .scratch _ c
  | hdr h => exact .hdr _ h
  | prevFrameType ft => exact .prevFrameType _ ft
  | frameType ft => exact .frameType _ ft
  | mbVlc h => exact .mbVlc _ h
  | blkVlc h => exact .blkVlc _ h
  | slot48 t => exact .slot48 _ t
  | config cfg => exact .config _ cfg
  | band p b f hf => exact .band _ p b f hf
  | chroma b src h => exact .chroma _ b src h
  | defaultSizes => exact .defaultSizes _
  | move n hc h => exact .move _ n hc h
  | allocate cfg ha h => exact .allocate _ cfg ha h
  | deallocate ha => exact .deallocate _ ha
  | buffer p b k buf ha h => exact .buffer _ p b k buf ha h
  | output t stores ho => exact .output _ t stores ho
  | rotate hr => exact .rotate _ hr
  | fstep f hs => exact .fstep _ f hs
  | frameAborted v hs => exact .frameAborted _ v hs
  | outValid v hs => exact .outValid _ v hs
  | bufInvalid v hs => exact .bufInvalid _ v hs

theorem Writes.withRvmaps (m : Vector RvMap 9) (h : Writes w s t) :
    Writes w { s with rvmaps := m } { t with rvmaps := m } :=
  h.lift (fun s => { s with rvmaps := m }) fun _ _ h => h.withRvmaps m

/-! ### Updates of the state as writes -/

/-- A Huffman register is one of the picture's two or a band's; a slot of none is not written (30_encoding.md R107). -/
theorem State.setHuffReg_writes (s : State) (t : Nat) (h : HuffTab) :
    Writes w s (s.setHuffReg t h) := by
  unfold State.setHuffReg
  split_ifs
  · exact .single (.mbVlc s h)
  · exact .single (.blkVlc s h)
  · exact .single (.band s _ _ _ fun _ => rfl)
  · exact .refl

theorem State.writeBlock_writes (ha : w.arena = true) (s : State) (d : Dst) (pitch n : Nat) (o : KernelOut) :
    Writes w s (s.writeBlock d pitch n o) :=
  (Write.buffer s _ _ _ _ ha fun h => bufWf_storeSamples _ h).writes.tail (.draws _ _)

theorem State.outputPlane_writes (ho : w.output = true) (s : State) (p : Nat) : Writes w s (s.outputPlane p) := by
  unfold State.outputPlane
  split
  · split
    · exact .refl
    · exact (Write.output s _ _ ho).writes.tail (.draws _ _)
  · exact .refl

theorem State.recompose_writes (ho : w.output = true) (s : State)
    (quad : Nat → Nat → (Nat → Nat → Nat → Int) → Nat → Nat → Int × Int × Int × Int) :
    Writes w s (s.recompose quad) := by
  unfold State.recompose
  split
  · exact .refl
  · exact (Write.output s _ _ ho).writes.tail (.draws _ _)

theorem State.releaseScratch_writes (s : State) : Writes w s s.releaseScratch :=
  (Write.scratch s (Scratch.free s.draws)).writes.tail (.draws _ (s.draws + 1))

theorem State.raised_writes (e : ErrKind) (s : State) : Writes w s (s.raised e) :=
  ((Write.err s e).writes.tail (.res _ (Config.freeRes s.draws))).tail (.draws _ (s.draws + 1))

/-! ### Band updates that keep the dimensions -/

theorem setQuant5_dims (q : Quant5) (qm : Nat) (bd : Band) : (setQuant5 q qm bd).dims = bd.dims := by
  unfold setQuant5
  split_ifs <;> rfl

theorem selectBuffers_dims (s : State) (bd : Band) : (selectBuffers s bd).dims = bd.dims := by
  unfold selectBuffers
  split_ifs <;> rfl

/-! ### Run-value corrections -/

theorem swapSym_swapSym (a b sym : Byte) : swapSym a b (swapSym a b sym) = sym := by
  unfold swapSym
  by_cases ha : a = sym
  · subst ha; simp
  · by_cases hb : b = sym
    · subst hb; simp [BitVec.xor_comm]
    · simp [ha, hb]

theorem swapEntries_swapEntries {α : Type} (v : Vector α 256) (a b : Byte) :
    swapEntries (swapEntries v a b) a b = v := by
  ext i hi
  simp only [swapEntries, Vector.getElem_ofFn]
  split_ifs <;> simp_all

/-- A correction pair undoes itself (44_coeff_dequant.md R298). -/
theorem correctMap_correctMap (m : RvMap) (pair : Byte × Byte) : correctMap (correctMap m pair) pair = m := by
  simp only [correctMap, swapSym_swapSym, swapEntries_swapEntries]

theorem correctAll_reverse (m : RvMap) (pairs : List (Byte × Byte)) :
    correctAll (correctAll m pairs) pairs.reverse = m := by
  induction pairs generalizing m with
  | nil => rfl
  | cons pair pairs ih =>
    simp only [correctAll, List.foldl_cons, List.reverse_cons, List.foldl_append, List.foldl_nil] at ih ⊢
    rw [ih, correctMap_correctMap]

/-- Corrections around writes, undone at the end, are those writes (44_coeff_dequant.md R291). -/
theorem Writes.corrected {w : Grants} {s t : State} (i : Fin 9) (pairs : List (Byte × Byte))
    (h : Writes w (s.updRvmap i fun m => correctAll m pairs) t) :
    Writes w s (t.updRvmap i fun m => correctAll m pairs.reverse) := by
  have key := h.withRvmaps s.rvmaps
  have hback : t.updRvmap i (fun m => correctAll m pairs.reverse) = { t with rvmaps := s.rvmaps } := by
    simp [State.updRvmap, h.rvmaps, correctAll_reverse]
  rw [hback]
  exact key

end Sys2Proof.Machine
end

section
/-! SUPPORT. Which writes each program of the model makes: one lemma for each program, along its steps. -/

namespace Sys2Proof.Machine

variable {α β : Type} {w : Grants}

/-- Every state the program leaves, whether it completes or raises, is reached by writes that `w` allows. -/
abbrev Limited (w : Grants) (m : M α) : Prop := Leads (Writes w) m

/-- A program leads to related states when it does so in each way it can end. -/
theorem leads_of_cases {R : State → State → Prop} {m : M α}
    (h : ∀ s, (∃ a s', m s = .ok a s' ∧ R s s') ∨ ∃ e s', m s = .error e s' ∧ R s s') : Leads R m := by
  intro s
  rcases h s with ⟨a, s', hm, hr⟩ | ⟨e, s', hm, hr⟩ <;> rw [hm]
  · exact ⟨fun _ _ h => by cases h; exact hr, fun _ _ h => by cases h⟩
  · exact ⟨fun _ _ h => (by cases h), fun _ _ h => by cases h; exact hr⟩

/-! ### The walk through a table -/

/-- It only looks and moves. -/
theorem leads_vlcWalk {R : State → State → Prop} (hR : Chains R) (hl : ∀ s n, R s (s.looked n))
    (hm : ∀ s n, s.avail n = true → R s (s.moved n)) (root depth : Nat) (codes : List VlcCode) (n : Nat) :
    Leads R (vlcWalk root depth codes n) := by
  induction depth generalizing codes n with
  | zero => exact leads_raise hR _
  | succ depth ih =>
    have hpeek : Leads R (peekIndex n) := leads_of_cases fun s => .inl ⟨_, _, rfl, hl s n⟩
    refine leads_bind hR hpeek fun idx => ?_
    cases vlcEntry root codes n idx with
    | code sym len => exact leads_bind hR (leads_skipBits hR _ (hm · _)) fun _ => leads_pure hR _
    | empty => exact leads_pure hR _
    | sub group nb =>
      cases depth with
      | zero => exact leads_raise hR _
      | succ depth => exact leads_bind hR (leads_skipBits hR _ (hm · _)) fun _ => ih group nb

/-- Only the cursor and the count of draws differ. -/
def OnlyReads (s t : State) : Prop := ∃ d i, t = { s with draws := d, br := { s.br with index := i } }

theorem OnlyReads.chains : Chains OnlyReads :=
  ⟨fun s => ⟨s.draws, s.br.index, rfl⟩, by rintro s _ _ ⟨d, i, rfl⟩ ⟨d', i', rfl⟩; exact ⟨d', i', rfl⟩⟩

theorem withCorrections_apply (bd : Band) (body : M Unit) (s : State) :
    withCorrections bd body s =
      finally' body (fun s => s.updRvmap bd.rvmapSel fun m => correctAll m bd.corrPairs.reverse)
        (s.updRvmap bd.rvmapSel fun m => correctAll m bd.corrPairs) := rfl

namespace Limited

/-! ### Putting programs together -/

theorem bind {m : M α} {f : α → M β} (hm : Limited w m) (hf : ∀ a, Limited w (f a)) : Limited w (m >>= f) :=
  leads_bind (Writes.chains w) hm hf

theorem ite {c : Prop} [Decidable c] {m n : M α} (hm : Limited w m) (hn : Limited w n) :
    Limited w (if c then m else n) := by
  split
  · exact hm
  · exact hn

theorem dite {c : Prop} [Decidable c] {m : c → M α} {n : ¬c → M α} (hm : ∀ h, Limited w (m h))
    (hn : ∀ h, Limited w (n h)) : Limited w (if h : c then m h else n h) := by
  split
  · exact hm _
  · exact hn _

theorem pure {a : α} : Limited w (pure a) := leads_pure (Writes.chains w) a

theorem done : Limited w done := leads_done (Writes.chains w)

theorem raise {e : ErrKind} : Limited w (raise e : M α) := leads_raise (Writes.chains w) e

theorem raiseIf {b : Bool} {e : ErrKind} : Limited w (raiseIf b e) := leads_raiseIf (Writes.chains w) b e

theorem look {f : State → α} : Limited w (look f) := leads_look (Writes.chains w) f

theorem need {e : ErrKind} {x : Option α} : Limited w (need e x) := leads_need (Writes.chains w) e x

theorem liftExcept {x : Except ErrKind α} : Limited w (liftExcept x) := leads_liftExcept (Writes.chains w) x

theorem update {f : State → State} (hf : ∀ s, Write w s (f s)) : Limited w (update f) :=
  leads_update fun s => .single (hf s)

theorem forEach {f : α → M Unit} {l : List α} (hf : ∀ a, Limited w (f a)) : Limited w (forEach f l) :=
  leads_forEach (Writes.chains w) hf l

theorem readLoop {f : M Bool} (hf : Limited w f) : Limited w (readLoop f) := leads_readLoop (Writes.chains w) hf

theorem sub {check : State → Option ErrKind} {body : M Unit} (hb : Limited w body) : Limited w (sub check body) :=
  leads_sub (Writes.chains w) hb

theorem onError {m : M α} {repair : State → State} (hm : Limited w m) (hr : ∀ s, Writes w s (repair s)) :
    Limited w (onError m repair) := leads_onError (Writes.chains w) hm hr

theorem finally' {m : M Unit} {after : State → State} (hm : Limited w m) (ha : ∀ s, Writes w s (after s)) :
    Limited w (finally' m after) := leads_finally (Writes.chains w) hm ha

/-- A program that looks at the state it starts from. -/
theorem withState {f : State → M α} (hf : ∀ s, Limited w (f s)) : Limited w (fun s => f s s) := leads_withState hf

/-! ### Single writes -/

theorem setRes {v : BitVec 64} : Limited w (setRes v) := .update fun s => .res s v

theorem updHdr {f : Header → Header} : Limited w (updHdr f) := .update fun s => .hdr s _

theorem updScratch {f : Scratch → Scratch} : Limited w (updScratch f) := .update fun s => .scratch s _

theorem updBand {p b : Nat} {f : Band → Band} (hf : ∀ bd, (f bd).dims = bd.dims := by intro; rfl) :
    Limited w (updBand p b f) := .update fun s => .band s p b f hf

theorem updTile {p b t : Nat} {f : Tile → Tile} : Limited w (Machine.update fun s => s.updTile p b t f) :=
  .update fun s => .band s p b _ fun _ => rfl

theorem updMb {p b t m : Nat} {f : Mb → Mb} : Limited w (updMb p b t m f) :=
  .update fun s => .band s p b _ fun _ => rfl

theorem getBand {p b : Nat} : Limited w (getBand p b) :=
  .withState (f := fun s => Machine.need _ (s.band? p b)) fun _ => .need

theorem getTile {p b t : Nat} : Limited w (getTile p b t) :=
  .withState (f := fun s => Machine.need _ (s.tile? p b t)) fun _ => .need

theorem getMb {p b t m : Nat} : Limited w (getMb p b t m) :=
  .withState (f := fun s => Machine.need _ (s.mb? p b t m)) fun _ => .need

theorem readBits (hc : w.cursor = true) {n : Nat} : Limited w (readBits n) :=
  leads_readBits (Writes.chains w) n fun s ha => .tail (.single (.draws s _)) (.move _ n hc ha)

theorem showBits {n : Nat} : Limited w (showBits n) := by
  refine leads_of_cases fun s => ?_
  rcases showBits_cases n s with ⟨-, -, h⟩ | ⟨-, -, h⟩ | ⟨-, h⟩
  · exact .inl ⟨_, _, h, .single (.draws s _)⟩
  · exact .inr ⟨_, _, h, .refl⟩
  · exact .inr ⟨_, _, h, .refl⟩

theorem skipBits (hc : w.cursor = true) {n : Nat} : Limited w (skipBits n) :=
  leads_skipBits (Writes.chains w) n fun s ha => .single (.move s n hc ha)

theorem alignBits (hc : w.cursor = true) : Limited w alignBits :=
  .withState (f := fun s => Machine.skipBits s.alignGap) fun _ => .skipBits hc

theorem readFlag (hc : w.cursor = true) : Limited w readFlag := .bind (.readBits hc) fun _ => .pure

theorem readField (hc : w.cursor = true) {n : Nat} : Limited w (readField n) := .bind (.readBits hc) fun _ => .pure

/-! ### The VLC commands -/

/-- A symbol is read, or the cursor stays (40_bitreader.md R140). -/
theorem vlcSymbol (hc : w.cursor = true) {t : VlcTable} {depth : Nat} : Limited w (vlcSymbol t depth) := by
  refine leads_of_cases fun s => ?_
  have hw : Limited w (vlcWalk t.rootBits depth t.codes t.rootBits) :=
    leads_vlcWalk (Writes.chains w) (fun s _ => .single (.draws s _)) (fun s n ha => .single (.move s n hc ha))
      _ _ _ _
  have ho := leads_vlcWalk OnlyReads.chains (fun s n => ⟨_, _, rfl⟩) (fun s n _ => ⟨_, _, rfl⟩)
    t.rootBits depth t.codes t.rootBits
  unfold Machine.vlcSymbol keepingCursor
  cases hs : vlcWalk t.rootBits depth t.codes t.rootBits s with
  | ok a s' => exact .inl ⟨a, s', rfl, (hw s).1 _ _ hs⟩
  | error e s' =>
    obtain ⟨d, i, rfl⟩ := (ho s).2 _ _ hs
    exact .inr ⟨e, _, rfl, .single (.draws s d)⟩

theorem vlcToRes (hc : w.cursor = true) {t d : Nat} : Limited w (vlcToRes t d) :=
  .bind .look fun _ => .bind .need fun _ => .bind (.vlcSymbol hc) fun _ => .setRes

theorem readVlc (hc : w.cursor = true) {t : Option VlcTable} : Limited w (readVlc t) :=
  .bind .need fun _ => .bind .raiseIf fun _ => .bind (.vlcSymbol hc) fun _ => .bind .raiseIf fun _ => .pure

theorem buildInto48 {r : Except VlcError VlcTable} {failed : State → State} (hf : ∀ s, Writes w s (failed s)) :
    Limited w (buildInto48 r failed) := by
  refine leads_of_cases fun s => ?_
  cases r with
  | ok t => exact .inl ⟨_, _, rfl, .single (.slot48 s _)⟩
  | error e => exact .inr ⟨_, _, rfl, hf s⟩

theorem huffBuild48 {d : HuffDesc} : Limited w (huffBuild48 d) :=
  .withState (f := fun s => Machine.buildInto48 (huffBuild s.params d) fun s => { s with slot48 := none })
    fun _ => .buildInto48 fun s => .single (.slot48 s _)

theorem initVlc48 {n : Nat} {codes : List OprCode} : Limited w (initVlc48 n codes) := .buildInto48 fun _ => .refl

theorem readValues (hc : w.cursor = true) {k n : Nat} : Limited w (readValues k n) := by
  induction n with
  | zero => exact .pure
  | succ n ih => exact .bind (.readBits hc) fun _ => .bind ih fun _ => .pure

theorem getHuffReg {t : Nat} : Limited w (getHuffReg t) :=
  .withState (f := fun s => Machine.need _ (s.huffReg? t)) fun _ => .need


theorem updHuffReg {t : Nat} {f : HuffTab → HuffTab} : Limited w (updHuffReg t f) :=
  .bind .getHuffReg fun _ => leads_update fun s => State.setHuffReg_writes s t _

theorem readDesc (hc : w.cursor = true) {n : Nat} : Limited w (readDesc n) := .bind (.readValues hc) fun _ => .pure

theorem decodeCustom (hc : w.cursor = true) {t : Nat} : Limited w (decodeCustom t) := by
  have hbuild (new : HuffDesc) := Limited.onError (w := w) (m := Machine.huffBuild48 new) .huffBuild48
    (repair := fun s => match s.huffReg? t with
      | some h => s.setHuffReg t { h with custDesc := { h.custDesc with numRows := 0 }, custTab := none }
      | none => s)
    fun s => by
      cases s.huffReg? t with
      | some h => exact State.setHuffReg_writes s t _
      | none => exact .refl
  exact .bind (.readBits hc) fun _ => .bind .raiseIf fun _ => .bind (.readDesc hc) fun new => .bind .getHuffReg fun _ =>
    .bind (.ite .done <| .bind .updHuffReg fun _ => .bind (hbuild new) fun _ => .bind .look fun _ => .updHuffReg)
      fun _ => .updHuffReg

theorem decodeHuffDesc (hc : w.cursor = true) {t : Nat} {kind : VlcKind} {coded : Bool} :
    Limited w (decodeHuffDesc t kind coded) :=
  .ite
    (.bind (.readField hc) fun _ => .bind .updHuffReg fun _ => .ite (.decodeCustom hc) .updHuffReg)
    (.bind .look fun policy => by
      cases policy with
      | reuse => exact .done
      | default7 => exact .updHuffReg)

/-! ### Allocation -/

theorem initPlanes (ha : w.arena = true) {cfg : PicConf} : Limited w (initPlanes cfg) := by
  refine leads_of_cases fun s => ?_
  rcases initPlanes_cases cfg s with ⟨hfit, h⟩ | ⟨-, h⟩
  · exact .inl ⟨_, _, h, .single (.allocate s cfg ha hfit)⟩
  · exact .inr ⟨_, _, h, .single (.deallocate s ha)⟩

theorem reallocate (ha : w.arena = true) {cfg : PicConf} : Limited w (reallocate cfg) :=
  .bind (.initPlanes ha) fun _ => .update fun s => .config s cfg

theorem linkTile {p b t : Nat} : Limited w (linkTile p b t) :=
  .bind .getTile fun _ => .bind .look fun _ => .bind .need fun _ => .bind .raiseIf fun _ => .bind .getTile fun _ =>
    .bind .raiseIf fun _ => .updTile

theorem buildTile {p b tw th : Nat} {e : (Nat × Nat) × Nat} : Limited w (buildTile p b tw th e) :=
  .bind .getBand fun _ => .bind .look fun _ => .bind .updBand fun _ =>
    .bind (.ite (.update fun s => .draws s _) .done) fun _ => .ite .done .linkTile

theorem buildTiles {p tw th b : Nat} : Limited w (buildTiles p tw th b) :=
  .bind .getBand fun _ => .bind .updBand fun _ => .forEach fun _ => .buildTile

theorem planeTiles {tw th p : Nat} : Limited w (planeTiles tw th p) :=
  .bind .look fun _ => .bind .raiseIf fun _ => .bind .raiseIf fun _ => .forEach fun _ => .buildTiles

theorem initTiles {tw th : Nat} : Limited w (initTiles tw th) := .forEach fun _ => .planeTiles

/-! ### The INDEO4 headers -/

theorem rejectFlag (hc : w.cursor = true) {e : ErrKind} : Limited w (rejectFlag e) :=
  .bind (.readFlag hc) fun _ => .raiseIf

theorem readOptional (hc : w.cursor = true) {n : Nat} : Limited w (readOptional n) :=
  .bind (.readFlag hc) fun _ => .ite (.readBits hc) .pure

theorem readPicSize4 (hc : w.cursor = true) : Limited w readPicSize4 :=
  .bind (.readBits hc) fun _ =>
    .dite (fun _ => .look) fun _ => .bind (.readField hc) fun _ => .bind (.readField hc) fun _ => .pure

theorem readTileDims4 (hc : w.cursor = true) {pic : BitVec 16 × BitVec 16} : Limited w (readTileDims4 pic) :=
  .bind (.readFlag hc) fun _ => .bind .updHdr fun _ =>
    .ite (.bind (.readBits hc) fun _ => .bind (.readBits hc) fun _ => .pure) .pure

theorem readQuad (hc : w.cursor = true) {n : Nat} : Limited w (readQuad n) := by
  induction n with
  | zero => exact .pure
  | succ n ih => exact .bind (.readBits hc) fun _ => .ite ih .pure

theorem readSubdiv (hc : w.cursor = true) : Limited w readSubdiv :=
  .bind (.readBits hc) fun _ => .ite .pure (.ite (.readQuad hc) .pure)

theorem readConfig4 (hc : w.cursor = true) : Limited w readConfig4 :=
  .bind (.readPicSize4 hc) fun _ => .bind (.readTileDims4 hc) fun _ => .bind (.readBits hc) fun _ =>
    .bind .raiseIf fun _ => .bind (.readSubdiv hc) fun _ => .bind (.ite (.readSubdiv hc) .pure) fun _ => .pure

theorem configure4 (hc : w.cursor = true) (ha : w.arena = true) : Limited w configure4 :=
  .bind (.readConfig4 hc) fun _ => .bind .updHdr fun _ => .bind .raiseIf fun _ => .bind .look fun _ =>
    .bind (.ite (.reallocate ha) .done) fun _ => .bind (.update .defaultSizes) fun _ =>
    .bind .look fun _ => .sub .initTiles

theorem extensionByte4 (hc : w.cursor = true) : Limited w extensionByte4 :=
  .bind (.readFlag hc) fun _ => .ite
    (.bind .look fun _ => .bind .raiseIf fun _ => .bind (.skipBits hc) fun _ => .pure) .pure

theorem readRvmapSel4 (hc : w.cursor = true) : Limited w readRvmapSel4 :=
  .bind (.readFlag hc) fun _ => .ite (.bind (.readBits hc) fun _ => .pure) .pure

theorem pictureFields4 (hc : w.cursor = true) : Limited w pictureFields4 :=
  .bind (.readOptional hc) fun _ => .bind .updHdr fun _ =>
    .bind (.readFlag hc) fun _ => .bind (.ite (.skipBits hc) .done) fun _ =>
    .bind (.readFlag hc) fun _ => .bind (.decodeHuffDesc hc) fun _ =>
    .bind (.readFlag hc) fun _ => .bind (.decodeHuffDesc hc) fun _ =>
    .bind (.readRvmapSel4 hc) fun _ => .bind .updHdr fun _ => .bind (.readFlag hc) fun _ => .bind .updHdr fun _ =>
    .bind (.readFlag hc) fun _ => .bind .updHdr fun _ => .bind (.readField hc) fun _ => .bind .updHdr fun _ =>
    .bind (.readOptional hc) fun _ => .bind .updHdr fun _ => .bind (.readOptional hc) fun _ => .bind .updHdr fun _ =>
    .bind (.readLoop (.extensionByte4 hc)) fun _ => .bind (.readBits hc) fun _ => .alignBits hc

theorem readFrameType (hc : w.cursor = true) : Limited w readFrameType :=
  .bind (.update fun s => .prevFrameType s _) fun _ => .bind (.readField hc) fun _ =>
    .bind (.update fun s => .frameType s _) fun _ => .pure

theorem pictureHeader4 (hc : w.cursor = true) (ha : w.arena = true) : Limited w pictureHeader4 :=
  .bind (.readBits hc) fun _ => .bind .raiseIf fun _ => .bind (.readFrameType hc) fun _ => .bind .raiseIf fun _ =>
    .bind (.ite .updHdr .done) fun _ => .bind (.readFlag hc) fun _ => .bind .updHdr fun _ =>
    .bind (.rejectFlag hc) fun _ => .bind (.readOptional hc) fun _ => .bind .updHdr fun _ =>
    .ite .done <| .bind (.readFlag hc) fun _ => .bind (.ite (.skipBits hc) .done) fun _ =>
    .bind (.configure4 hc ha) fun _ => .pictureFields4 hc

theorem selectTransform4 {p b id : Nat} : Limited w (selectTransform4 p b id) :=
  .bind .need fun _ => .bind .getBand fun _ => .bind .raiseIf fun _ => .bind (.ite .updHdr .done) fun _ =>
    .bind .look fun _ => .bind .updBand fun _ => .raiseIf

theorem selectQuant4 {p b : Nat} : Limited w (selectQuant4 p b) := .bind .look fun _ => .updBand

theorem bandSelection4 (hc : w.cursor = true) {p b : Nat} : Limited w (bandSelection4 p b) :=
  .bind (.readBits hc) fun _ => .bind .selectTransform4 fun _ => .bind (.readBits hc) fun _ => .bind .getBand fun _ =>
    .bind .raiseIf fun _ => .bind .raiseIf fun _ => .bind .look fun _ => .bind .updBand fun _ =>
    .bind (.readField hc) fun _ => .bind .look fun _ => .bind .raiseIf fun _ => .updBand

theorem readCorr (hc : w.cursor = true) {p b i n : Nat} : Limited w (readCorr p b i n) := by
  induction n generalizing i with
  | zero => exact .done
  | succ n ih => exact .bind (.readField hc) fun _ => .bind .updBand fun _ => ih

theorem readCorrections (hc : w.cursor = true) {p b : Nat} : Limited w (readCorrections p b) :=
  .bind (.readBits hc) fun _ => .bind .updBand fun _ => .bind .look fun _ => .bind .raiseIf fun _ => .readCorr hc

theorem readBandRvmap (hc : w.cursor = true) {coded : Bool} : Limited w (readBandRvmap coded) :=
  .ite (.bind (.readBits hc) fun _ => .pure) .pure

theorem readBandChecksum (hc : w.cursor = true) {p b : Nat} : Limited w (readBandChecksum p b) :=
  .bind (.readFlag hc) fun _ => .bind .updBand fun _ => .ite (.bind (.readField hc) fun _ => .updBand) .done

theorem checkSelection4 {p b : Nat} : Limited w (checkSelection4 p b) :=
  .bind .getBand fun _ => .bind .look fun _ => .bind (.ite (.bind .updBand fun _ => .raise) .done) fun _ =>
    .bind .raiseIf fun _ => .raiseIf

theorem bandFields4 (hc : w.cursor = true) {p b : Nat} : Limited w (bandFields4 p b) :=
  .bind .getBand fun _ => .bind (.readFlag hc) fun _ => .bind (.ite (.skipBits hc) .done) fun _ =>
    .bind (.readBits hc) fun _ => .bind .raiseIf fun _ => .bind .updBand fun _ => .bind (.ite .updHdr .done) fun _ =>
    .bind (.readBandChecksum hc) fun _ => .bind (.readBits hc) fun _ => .bind .raiseIf fun _ => .bind .updBand fun _ =>
    .bind (.readFlag hc) fun _ => .bind .updBand fun _ => .bind (.readFlag hc) fun _ => .bind .updBand fun _ =>
    .bind (.readField hc) fun _ => .bind .updBand fun _ => .bind (.readFlag hc) fun _ => .bind .look fun _ =>
    .bind .getBand fun _ => .bind (.ite (.bandSelection4 hc) .raiseIf) fun _ => .bind .checkSelection4 fun _ =>
    .bind (.readFlag hc) fun _ => .bind (.ite (.decodeHuffDesc hc) .updBand) fun _ =>
    .bind (.readFlag hc) fun _ => .bind (.readBandRvmap hc) fun _ => .bind .updBand fun _ =>
    .bind (.readFlag hc) fun _ => .ite (.readCorrections hc) .done

theorem bandHeader4 (hc : w.cursor = true) {p b : Nat} : Limited w (bandHeader4 p b) :=
  .bind (.readBits hc) fun _ => .bind .raiseIf fun _ => .bind (.readBits hc) fun _ => .bind .raiseIf fun _ =>
    .bind (.readFlag hc) fun _ => .bind .updBand fun _ => .bind (.ite .done (.bandFields4 hc)) fun _ =>
    .bind .selectQuant4 fun _ => .bind (.alignBits hc) fun _ => .bind .getBand fun _ => .raiseIf

/-! ### The INDEO5 headers -/

theorem extensionBlock5 (hc : w.cursor = true) : Limited w extensionBlock5 :=
  .bind (.readBits hc) fun _ => .bind .look fun _ => .ite .pure (.bind (.skipBits hc) fun _ => .pure)

theorem skipExtension5 (hc : w.cursor = true) : Limited w skipExtension5 := .readLoop (.extensionBlock5 hc)

theorem selectTransform5 {p b : Nat} : Limited w (selectTransform5 p b) :=
  .bind .need fun _ => .bind .look fun _ => .bind .updBand fun _ => .bind .getBand fun _ => .raiseIf

theorem selectQuant5 {p b : Nat} : Limited w (selectQuant5 p b) :=
  .bind .look fun _ => .bind .getBand fun _ => .bind .raiseIf fun _ => .bind .look fun q =>
    .updBand (setQuant5_dims q _)

theorem gopBand (hc : w.cursor = true) {p b : Nat} : Limited w (gopBand p b) :=
  .bind .getBand fun _ => .bind (.readFlag hc) fun _ => .bind .updBand fun _ => .bind (.readFlag hc) fun _ =>
    .bind (.readBits hc) fun _ => .bind .raiseIf fun _ => .bind .getBand fun _ => .bind (.ite .updBand .done) fun _ =>
    .bind (.rejectFlag hc) fun _ => .bind .selectTransform5 fun _ => .bind .selectQuant5 fun _ =>
    .bind (.readBits hc) fun _ => .bind .raiseIf fun _ => .pure

theorem gopBandList (hc : w.cursor = true) {l : List (Nat × Nat)} {changed : Bool} :
    Limited w (gopBandList l changed) := by
  induction l generalizing changed with
  | nil => exact .pure
  | cons _ l ih => exact .bind (.gopBand hc) fun _ => ih

theorem copyChroma {b : Nat} : Limited w (copyChroma b) := by
  refine leads_of_cases fun s => ?_
  unfold Machine.copyChroma
  rw [M.bind_apply]
  unfold Machine.getBand
  cases h : s.band? 1 b with
  | none => exact .inr ⟨_, _, rfl, .refl⟩
  | some src => exact .inl ⟨_, _, rfl, .single (.chroma s b src h)⟩

theorem gopBands (hc : w.cursor = true) {changed : Bool} : Limited w (gopBands changed) :=
  .bind .look fun _ => .bind (.gopBandList hc) fun _ => .bind (.forEach fun _ => .copyChroma) fun _ => .pure

theorem readPicSize5 (hc : w.cursor = true) : Limited w readPicSize5 :=
  .bind (.readBits hc) fun _ =>
    .dite (fun _ => .look) fun _ => .bind (.readField hc) fun _ => .bind (.readField hc) fun _ => .pure

theorem readTileDim5 (hc : w.cursor = true) {flags : BitVec 8} : Limited w (readTileDim5 flags) :=
  .bind (.ite (.bind (.readBits hc) fun _ => .pure) .pure) fun _ => .bind .raiseIf fun _ => .pure

theorem readConfig5 (hc : w.cursor = true) {flags : BitVec 8} : Limited w (readConfig5 flags) :=
  .bind (.readTileDim5 hc) fun _ => .bind (.readBits hc) fun _ => .bind (.readBits hc) fun _ => .bind .raiseIf fun _ =>
    .bind (.readPicSize5 hc) fun _ => .bind .raiseIf fun _ => .pure

theorem configure5 (ha : w.arena = true) {cfg : PicConf} : Limited w (configure5 cfg) :=
  .bind .look fun _ => .ite (.bind (.reallocate ha) fun _ => .bind .updHdr fun _ => .pure) .pure

theorem gopExtensionWord (hc : w.cursor = true) : Limited w gopExtensionWord := .bind (.readBits hc) fun _ => .pure

theorem gopTail (hc : w.cursor = true) {flags : BitVec 8} : Limited w (gopTail flags) :=
  .bind (.ite (.bind (.readBits hc) fun _ => .bind .raiseIf fun _ => .bind (.readFlag hc) fun _ =>
      .ite (.skipBits hc) .done) .done) fun _ =>
    .bind (.alignBits hc) fun _ => .bind (.skipBits hc) fun _ => .bind (.readFlag hc) fun _ =>
    .bind (.ite (.readLoop (.gopExtensionWord hc)) .done) fun _ => .alignBits hc

theorem gopFields (hc : w.cursor = true) : Limited w gopFields :=
  .bind (.readField hc) fun _ => .bind .updHdr fun _ => .bind (.ite (.readBits hc) .pure) fun _ =>
    .bind .updHdr fun _ =>
    .bind (.ite (.bind (.readField hc) fun _ => .updHdr) .done) fun _ => .pure

theorem gopHeader (hc : w.cursor = true) (ha : w.arena = true) : Limited w gopHeader :=
  .bind (.gopFields hc) fun _ => .bind (.readConfig5 hc) fun _ => .bind (.configure5 ha) fun _ =>
    .bind (.gopBands hc) fun _ => .bind (.ite (.bind .look fun _ => .sub .initTiles) .done) fun _ => .gopTail hc

theorem pictureGop5 (hc : w.cursor = true) (ha : w.arena = true) : Limited w pictureGop5 :=
  .bind (.onError (.gopHeader hc ha) fun s => .single (.hdr s _)) fun _ => .updHdr

theorem pictureFields5 (hc : w.cursor = true) : Limited w pictureFields5 :=
  .bind (.readField hc) fun _ => .bind .updHdr fun _ => .bind (.ite (.readBits hc) .pure) fun _ =>
    .bind .updHdr fun _ =>
    .bind (.ite (.readBits hc) .pure) fun _ => .bind .updHdr fun _ => .bind (.ite (.skipExtension5 hc) .done) fun _ =>
    .bind (.decodeHuffDesc hc) fun _ => .skipBits hc

theorem pictureHeader5 (hc : w.cursor = true) (ha : w.arena = true) : Limited w pictureHeader5 :=
  .bind (.readBits hc) fun _ => .bind .raiseIf fun _ => .bind (.readFrameType hc) fun _ =>
    .bind (.ite (.bind (.update fun s => .frameType s _) fun _ => .raise) .done) fun _ =>
    .bind (.readBits hc) fun _ => .bind .updHdr fun _ => .bind (.ite (.pictureGop5 hc ha) .done) fun _ =>
    .bind .look fun _ => .bind (.ite (.bind (.update fun s => .frameType s _) fun _ => .raise) .done) fun _ =>
    .bind (.ite .done (.pictureFields5 hc)) fun _ => .alignBits hc

theorem bandFields5 (hc : w.cursor = true) {p b : Nat} {f : BitVec 8} : Limited w (bandFields5 p b f) :=
  .bind .look fun _ => .bind (.ite (.readBits hc) .pure) fun _ => .bind .updBand fun _ =>
    .bind (.ite (.readCorrections hc) .done) fun _ => .bind (.readBandRvmap hc) fun _ => .bind .updBand fun _ =>
    .bind (.decodeHuffDesc hc) fun _ => .bind (.readBandChecksum hc) fun _ => .bind (.readField hc) fun _ =>
    .bind .updBand fun _ =>
    .bind (.ite (.bind (.alignBits hc) fun _ => .skipExtension5 hc) .done) fun _ => .alignBits hc

theorem bandHeader5 (hc : w.cursor = true) {p b : Nat} : Limited w (bandHeader5 p b) :=
  .bind (.readField hc) fun _ => .bind .updBand fun _ => .ite .done (.bandFields5 hc)

theorem pictureHeader (hc : w.cursor = true) (ha : w.arena = true) : Limited w pictureHeader :=
  .bind .look fun codec => by
    cases codec with
    | indeo4 => exact .pictureHeader4 hc ha
    | indeo5 => exact .pictureHeader5 hc ha

theorem bandHeader (hc : w.cursor = true) {p b : Nat} : Limited w (bandHeader p b) :=
  .bind .look fun codec => by
    cases codec with
    | indeo4 => exact .bandHeader4 hc
    | indeo5 => exact .bandHeader5 hc

/-! ### Predictions and transforms -/

theorem runMc (ha : w.arena = true) {o : McOps} {n t : Nat} {delta : Bool} : Limited w (runMc o n t delta) :=
  .update fun s => .buffer s _ _ _ _ ha fun h => bufWf_mcStore _ _ _ _ _ h

theorem runMcAvg (ha : w.arena = true) {o : McOps} {n t t2 : Nat} {delta : Bool} :
    Limited w (runMcAvg o n t t2 delta) :=
  leads_update fun s => (Write.scratch s _).writes.tail (.buffer _ _ _ _ _ ha fun h => bufWf_mcStore _ _ _ _ _ h)

theorem runInvTx (ha : w.arena = true) {tx : InvTx} {coefs : Vector Coef 64} {flags : Vector Bool 8} {d : Dst}
    {pitch : Nat} : Limited w (runInvTx tx coefs flags d pitch) :=
  leads_update fun s => State.writeBlock_writes ha s d pitch _ _

theorem runDcTx (ha : w.arena = true) {tx : DcTx} {dc : Coef} {d : Dst} {pitch : Nat} :
    Limited w (runDcTx tx dc d pitch) :=
  leads_update fun s => State.writeBlock_writes ha s d pitch _ _

/-! ### Coefficients and blocks -/

theorem dequantToRes {o : Opr} : Limited w (dequantToRes o) :=
  .bind .getBand fun _ => .bind .liftExcept fun _ => .setRes

theorem mbCtx {bd : Band} {mb : Mb} : Limited w (mbCtx bd mb) := .bind .raiseIf fun _ => .look

theorem predictSingle (ha : w.arena = true) {o : McOps} {n t : Nat} {delta : Bool} :
    Limited w (predictSingle o n t delta) := .sub (.runMc ha)

theorem predictBoth (ha : w.arena = true) {o : McOps} {n t t2 : Nat} {delta : Bool} :
    Limited w (predictBoth o n t t2 delta) := .sub (.runMcAvg ha)

theorem predictBlock (ha : w.arena = true) {p b : Nat} {bd : Band} {c : MbCtx} {off : Nat} {delta : Bool} :
    Limited w (predictBlock p b bd c off delta) :=
  .bind .look fun _ => by
    dsimp only
    cases c.t1 with
    | none =>
      cases c.t2 with
      | none => exact .done
      | some t => exact .bind .need fun _ => .predictSingle ha
    | some t =>
      cases c.t2 with
      | none => exact .bind .need fun _ => .predictSingle ha
      | some t2 => exact .bind .need fun _ => .bind .need fun _ => .predictBoth ha

theorem clearBlock {n : Nat} : Limited w (clearBlock n) := .updScratch

theorem readSymbol (hc : w.cursor = true) {bd : Band} : Limited w (readSymbol bd) := .bind .look fun _ => .readVlc hc

theorem runValue (hc : w.cursor = true) {bd : Band} {rv : RvMap} {sym : Nat} : Limited w (runValue bd rv sym) :=
  .ite (.bind (.readSymbol hc) fun _ => .bind (.readSymbol hc) fun _ => .bind (.readSymbol hc) fun _ => .pure)
    (.dite (fun _ => .pure) fun _ => .raise)

theorem coefTurn (hc : w.cursor = true) {bd : Band} {scan : List Nat} {intra : Bool} {quant : Int} :
    Limited w (coefTurn bd scan intra quant) :=
  .bind .look fun _ => .bind (.readSymbol hc) fun _ => .ite .pure <| .bind (.runValue hc) fun _ =>
    .bind .updScratch fun _ => .bind .look fun _ => .ite .pure <| .bind .liftExcept fun _ =>
    .bind .updScratch fun _ => .pure

theorem transformBlock (ha : w.arena = true) {p b : Nat} {bd : Band} {tx : InvTx} {off : Nat} :
    Limited w (transformBlock p b bd tx off) := .bind .look fun _ => .sub (.runInvTx ha)

theorem decodeBlock (hc : w.cursor = true) (ha : w.arena = true) {p b t m blk : Nat} :
    Limited w (decodeBlock p b t m blk) :=
  .bind .getBand fun _ => .bind .getMb fun _ => .bind .mbCtx fun _ => .bind .raiseIf fun _ => .bind .need fun _ =>
    .bind .need fun _ => .bind .clearBlock fun _ => .bind (.readLoop (.coefTurn hc)) fun _ => .bind .look fun _ =>
    .bind .raiseIf fun _ => .bind (.ite .updScratch .done) fun _ => .bind .raiseIf fun _ =>
    .bind (.transformBlock ha) fun _ => .ite .done (.predictBlock ha)

theorem fillBlock (ha : w.arena = true) {p b t m blk : Nat} : Limited w (fillBlock p b t m blk) :=
  .bind .getBand fun bd => .bind .getMb fun _ => .bind .mbCtx fun _ => .bind .raiseIf fun _ =>
    .ite (by
      cases bd.dcTransform with
      | none => exact .done
      | some tx => exact .bind .look fun _ => .sub (.runDcTx ha)) (.predictBlock ha)

theorem codedOrNot (hc : w.cursor = true) (ha : w.arena = true) {p b t m : Nat} {mb : Mb} {blk : Nat} :
    Limited w (codedOrNot p b t m mb blk) := .sub (.ite (.decodeBlock hc ha) (.fillBlock ha))

theorem decodeMb (hc : w.cursor = true) (ha : w.arena = true) {p b t m : Nat} : Limited w (decodeMb p b t m) :=
  .bind .getBand fun _ => .bind .getMb fun _ => .bind .mbCtx fun _ => .forEach fun _ => .codedOrNot hc ha

theorem decodeTileBlocks (hc : w.cursor = true) (ha : w.arena = true) {p b t : Nat} :
    Limited w (decodeTileBlocks p b t) :=
  .bind .updScratch fun _ => .bind .getTile fun _ => .bind (.forEach fun _ => .decodeMb hc ha) fun _ => .alignBits hc

/-! ### Tiles -/

theorem refMb {tl : Tile} {r : Nat} : Limited w (refMb tl r) := by
  unfold Machine.refMb
  cases tl.refTile with
  | none => exact .pure
  | some i => exact .bind .getMb fun _ => .pure

theorem emptyMb {p b t : Nat} {bd : Band} {tl : Tile} {m x y : Nat} : Limited w (emptyMb p b t bd tl m x y) :=
  .bind .updMb fun _ => .bind (.ite .updMb .done) fun _ => .bind .refMb fun ref? => by
    cases ref? with
    | none => exact .pure
    | some ref =>
      exact .bind (.ite .updMb .done) fun _ => .ite
        (.bind .look fun _ => .bind .updMb fun _ => .bind .raiseIf fun _ => .pure) .pure

theorem emptyMbs {p b t : Nat} {bd : Band} {tl : Tile} {l : List (Nat × Nat × Nat)} {needMc : Bool} :
    Limited w (emptyMbs p b t bd tl l needMc) := by
  induction l generalizing needMc with
  | nil => exact .pure
  | cons _ l ih => exact .bind .emptyMb fun _ => ih

theorem emptyBlock (ha : w.arena = true) {p b : Nat} {bd : Band} {mb : Mb} {blk : Nat} :
    Limited w (emptyBlock p b bd mb blk) := .bind .need fun _ => .bind .look fun _ => .predictSingle ha

theorem emptyPredict (ha : w.arena = true) {p b t : Nat} {bd : Band} {m : Nat} :
    Limited w (emptyPredict p b t bd m) := .bind .getMb fun _ => .forEach fun _ => .emptyBlock ha

theorem copyTile (ha : w.arena = true) {p b : Nat} {bd : Band} {tl : Tile} : Limited w (copyTile p b bd tl) :=
  .bind .need fun _ => .bind .look fun _ => .bind .need fun _ =>
    .update fun s => .buffer s _ _ _ _ ha fun h => bufWf_copySamples _ h

theorem emptyTile (ha : w.arena = true) {p b t : Nat} : Limited w (emptyTile p b t) :=
  .bind .getBand fun _ => .bind .getTile fun _ => .bind .raiseIf fun _ => .bind .emptyMbs fun _ =>
    .ite (.forEach fun _ => .emptyPredict ha) (.copyTile ha)

theorem tileSizeField (hc : w.cursor = true) : Limited w tileSizeField :=
  .bind (.readFlag hc) fun _ => .ite (.bind (.readBits hc) fun _ => .ite (.readBits hc) .pure) .pure

theorem readTileSize (hc : w.cursor = true) : Limited w readTileSize :=
  .bind (.tileSizeField hc) fun _ => .bind (.alignBits hc) fun _ => .pure

/-! ### Macroblock information -/

theorem readMbSigned (hc : w.cursor = true) : Limited w readMbSigned :=
  .bind (.bind .look fun _ => .readVlc hc) fun _ => .pure

theorem readDeltas (hc : w.cursor = true) {pred : Int × Int} : Limited w (readDeltas pred) :=
  .bind (.readMbSigned hc) fun _ => .bind (.readMbSigned hc) fun _ => .pure

theorem readQDelta (hc : w.cursor = true) {p b t m : Nat} : Limited w (readQDelta p b t m) :=
  .bind (.readMbSigned hc) fun _ => .updMb

theorem inheritVector {p b t m : Nat} {bd : Band} {ref : Mb} : Limited w (inheritVector p b t m bd ref) :=
  .bind .look fun _ => .updMb

/-- A write taken over from a macroblock's reference, when it has one. -/
theorem ofRef {ref? : Option Mb} {f : Mb → M Unit} (hf : ∀ ref, Limited w (f ref)) :
    Limited w (match ref? with | some ref => f ref | none => Machine.done) := by
  cases ref? with
  | none => exact .done
  | some ref => exact hf ref

theorem emptyMbInfo (hc : w.cursor = true) {p b t m : Nat} {bd : Band} {coded : Bool} {ref? : Option Mb} :
    Limited w (emptyMbInfo p b t m bd coded ref?) :=
  .bind .look fun _ => .bind .raiseIf fun _ => .bind .updMb fun _ => .bind (.ite (.readQDelta hc) .done) fun _ =>
    .bind .updMb fun _ => .ofRef fun _ => .ite .inheritVector .done

theorem mbTypeAndCbp (hc : w.cursor = true) {p b t m : Nat} {bd : Band} {readType : M (BitVec 2)}
    (hr : Limited w readType) : Limited w (mbTypeAndCbp p b t m bd readType) :=
  .bind hr fun _ => .bind .updMb fun _ => .bind (.readBits hc) fun _ => .updMb

theorem checkMbWindow {p b t m : Nat} {bd : Band} : Limited w (checkMbWindow p b t m bd) :=
  .bind .getMb fun _ => .raiseIf

theorem mbType4 (hc : w.cursor = true) {bd : Band} {ref? : Option Mb} : Limited w (mbType4 bd ref?) :=
  .ite (.bind .need fun _ => .pure) (.bind .look fun _ => .ite .pure (.bind (.readBits hc) fun _ => .pure))

theorem mbQDelta4 (hc : w.cursor = true) {p b t m : Nat} {bd : Band} {ref? : Option Mb} :
    Limited w (mbQDelta4 p b t m bd ref?) :=
  .ite (.ofRef fun _ => .updMb) (.bind .getMb fun _ => .bind .look fun _ => .ite (.readQDelta hc) .done)

theorem decodeVectors4 (hc : w.cursor = true) {p b t m : Nat} {ty : BitVec 2} {pred : Int × Int} :
    Limited w (decodeVectors4 p b t m ty pred) :=
  .bind (.readDeltas hc) fun _ => .bind .updMb fun _ =>
    .ite (.bind (.readDeltas hc) fun _ => .bind .updMb fun _ => .pure) .pure

theorem mbVectors4 (hc : w.cursor = true) {p b t m : Nat} {bd : Band} {ref? : Option Mb} {pred : Int × Int} :
    Limited w (mbVectors4 p b t m bd ref? pred) :=
  .bind .getMb fun _ => .ite (.bind .updMb fun _ => .pure) <|
    .bind (.ite (.bind (.ofRef fun _ => .inheritVector) fun _ => .pure) (.decodeVectors4 hc)) fun _ =>
    .bind (.ite .updMb .done) fun _ => .pure

theorem mbInfo4 (hc : w.cursor = true) {p b t : Nat} {bd : Band} {tl : Tile} {m x y : Nat} {pred : Int × Int} :
    Limited w (mbInfo4 p b t bd tl m x y pred) :=
  .bind .refMb fun _ => .bind .updMb fun _ => .bind (.readFlag hc) fun _ =>
    .bind (.ite
      (.bind .look fun _ => .bind (.emptyMbInfo hc) fun _ => .pure)
      (.bind (.mbTypeAndCbp hc (.mbType4 hc)) fun _ => .bind (.mbQDelta4 hc) fun _ => .mbVectors4 hc)) fun _ =>
    .bind .checkMbWindow fun _ => .pure

theorem mbType5 (hc : w.cursor = true) {bd : Band} {ref? : Option Mb} : Limited w (mbType5 bd ref?) := by
  unfold Machine.mbType5
  cases (if bd.inheritMv then ref? else none) with
  | some ref => exact .pure
  | none => exact .bind .look fun _ => .ite .pure (.bind (.readBits hc) fun _ => .pure)

theorem mbQDelta5 (hc : w.cursor = true) {p b t m : Nat} {bd : Band} {ref? : Option Mb} :
    Limited w (mbQDelta5 p b t m bd ref?) :=
  .ite (.ite (.ofRef fun _ => .updMb) (.bind .getMb fun _ => .bind .look fun _ => .ite (.readQDelta hc) .done)) .done

theorem mbVector5 (hc : w.cursor = true) {p b t m : Nat} {bd : Band} {ref? : Option Mb} {pred : Int × Int} :
    Limited w (mbVector5 p b t m bd ref? pred) :=
  .bind .getMb fun _ => .ite (.bind .updMb fun _ => .pure) <| by
    cases (if bd.inheritMv then ref? else none) with
    | some ref => exact .bind .inheritVector fun _ => .pure
    | none => exact .bind (.readDeltas hc) fun _ => .bind .updMb fun _ => .pure

theorem mbInfo5 (hc : w.cursor = true) {p b t : Nat} {bd : Band} {tl : Tile} {m x y : Nat} {pred : Int × Int} :
    Limited w (mbInfo5 p b t bd tl m x y pred) :=
  .bind .refMb fun _ => .bind .updMb fun _ => .bind (.readFlag hc) fun _ =>
    .bind (.ite
      (.bind .look fun _ => .bind (.emptyMbInfo hc) fun _ => .pure)
      (.bind (.mbTypeAndCbp hc (.mbType5 hc)) fun _ => .bind (.mbQDelta5 hc) fun _ => .mbVector5 hc)) fun _ =>
    .bind .checkMbWindow fun _ => .pure

theorem mbInfos {one : Nat → Nat → Nat → Int × Int → M (Int × Int)} (ho : ∀ m x y pred, Limited w (one m x y pred))
    {l : List (Nat × Nat × Nat)} {pred : Int × Int} : Limited w (mbInfos one l pred) := by
  induction l generalizing pred with
  | nil => exact .done
  | cons e l ih => exact .bind (ho _ _ _ _) fun _ => ih

theorem decodeMbInfo (hc : w.cursor = true) {p b t : Nat} : Limited w (decodeMbInfo p b t) :=
  .bind .getBand fun _ => .bind .getTile fun _ => .bind .look fun codec => .bind .raiseIf fun _ =>
    .bind (by
      cases codec with
      | indeo4 => exact .mbInfos fun _ _ _ _ => .mbInfo4 hc
      | indeo5 => exact .bind .raiseIf fun _ => .mbInfos fun _ _ _ _ => .mbInfo5 hc) fun _ => .alignBits hc

/-! ### Bands -/

theorem codedTile (hc : w.cursor = true) (ha : w.arena = true) {p b t pos : Nat} : Limited w (codedTile p b t pos) :=
  .bind (.readTileSize hc) fun _ => .bind .updTile fun _ => .bind .raiseIf fun _ =>
    .bind (.sub (.decodeMbInfo hc)) fun _ => .bind (.sub (.decodeTileBlocks hc ha)) fun _ => .bind .look fun _ => .bind .raiseIf fun _ => .pure

theorem bandTile (hc : w.cursor = true) (ha : w.arena = true) {p b t pos : Nat} : Limited w (bandTile p b t pos) :=
  .bind .getBand fun _ => .bind .getTile fun _ => .bind .raiseIf fun _ => .bind (.readFlag hc) fun _ =>
    .bind .updTile fun _ => .ite (.bind (.sub (.emptyTile ha)) fun _ => .pure) (.codedTile hc ha)

theorem bandTiles (hc : w.cursor = true) (ha : w.arena = true) {p b : Nat} {l : List Nat} {pos : Nat} :
    Limited w (bandTiles p b l pos) := by
  induction l generalizing pos with
  | nil => exact .done
  | cons _ l ih => exact .bind (.bandTile hc ha) fun _ => ih

theorem emptyBand (hc : w.cursor = true) (ha : w.arena = true) {p b : Nat} : Limited w (emptyBand p b) :=
  .bind .look fun policy => by
    cases policy with
    | keep => exact .alignBits hc
    | zero => exact .bind (.update fun s => .buffer s _ _ _ _ ha fun _ => bufWf_nil) fun _ => .alignBits hc
    | error => exact .raise

theorem withCorrections {bd : Band} {body : M Unit} (hb : Limited w body) : Limited w (withCorrections bd body) := by
  refine leads_of_cases fun s => ?_
  rw [withCorrections_apply]
  unfold Machine.finally'
  cases hs : body (s.updRvmap bd.rvmapSel fun m => correctAll m bd.corrPairs) with
  | ok a t => exact .inl ⟨_, _, rfl, ((hb _).1 _ _ hs).corrected _ _⟩
  | error e t => exact .inr ⟨_, _, rfl, ((hb _).2 _ _ hs).corrected _ _⟩

theorem decodeBand (hc : w.cursor = true) (ha : w.arena = true) {p b : Nat} : Limited w (decodeBand p b) :=
  .bind .look fun _ => .bind .raiseIf fun _ =>
    .bind (.update fun s => .band s p b _ (selectBuffers_dims s)) fun _ =>
    .bind (.sub (.bandHeader hc)) fun _ => .bind .getBand fun _ => .ite (.emptyBand hc ha) <|
    .bind .look fun _ => .bind (.withCorrections (.bandTiles hc ha)) fun _ => .alignBits hc

/-! ### Frames -/

theorem goTo (hs : w.sequencer = true) {f : FStep} : Limited w (goTo f) := .update fun s => .fstep s f hs

theorem markDst (hs : w.sequencer = true) {v : Bool} : Limited w (markDst v) := .update fun s => .bufInvalid s _ hs

theorem frameBands (hc : w.cursor = true) (ha : w.arena = true) {p : Nat} : Limited w (frameBands p) :=
  .bind .look fun _ => .forEach fun _ => .sub (.decodeBand hc ha)

theorem frameOutput (ho : w.output = true) (hs : w.sequencer = true) : Limited w frameOutput := by
  have hplane (p : Nat) : Limited w (Machine.sub (checkBand p 0) (Machine.update fun s => s.outputPlane p)) :=
    .sub (leads_update fun s => State.outputPlane_writes ho s p)
  have hend : Limited w (Machine.update fun s => { s with outValid := true, fstep := .idle }) :=
    leads_update fun s => (Write.outValid s true hs).writes.tail (.fstep _ .idle hs)
  refine .bind .look fun sc => .bind (.ite (.bind (.goTo hs) fun _ => ?_) (.bind (.goTo hs) fun _ => hplane 0)) fun _ =>
    .bind (.goTo hs) fun _ => .bind (hplane 2) fun _ => .bind (hplane 1) fun _ => hend
  cases sc.2 with
  | indeo4 => exact .sub (leads_update fun s => State.recompose_writes ho s _)
  | indeo5 => exact .sub (leads_update fun s => State.recompose_writes ho s _)

theorem checkDstValid : Limited w checkDstValid := .bind .look fun _ => .raiseIf

theorem codedFrame (hc : w.cursor = true) (ha : w.arena = true) (ho : w.output = true) (hs : w.sequencer = true) :
    Limited w codedFrame :=
  .bind (.markDst hs) fun _ => .bind (.goTo hs) fun _ => .bind (.forEach fun _ => .frameBands hc ha) fun _ =>
    .bind (.markDst hs) fun _ => .bind .checkDstValid fun _ => .frameOutput ho hs

theorem nullFrame (hs : w.sequencer = true) : Limited w nullFrame :=
  .bind .look fun _ => .bind .raiseIf fun _ => .bind (.forEach fun _ => .bind .getBand fun _ => .raiseIf) fun _ =>
    .bind .checkDstValid fun _ => .goTo hs

theorem frameBody : Limited .all frameBody :=
  .bind .look fun _ => .bind .raiseIf fun _ => .bind .look fun _ => .ite (.goTo rfl) <|
    .bind .look fun _ => .bind .raiseIf fun _ => .bind .look fun _ => .bind .raiseIf fun _ => .bind (.goTo rfl) fun _ =>
    .bind (.update fun s => .rotate s rfl) fun _ => .bind .look fun _ =>
    .ite (.codedFrame rfl rfl rfl rfl) (.nullFrame rfl)

theorem frameSteps : Limited .all frameSteps :=
  .bind (.update fun s => .frameAborted s false rfl) fun _ => .bind (.goTo rfl) fun _ =>
    .bind (.sub (.pictureHeader rfl rfl)) fun _ => .frameBody

end Limited

end Sys2Proof.Machine
end

section
/-! SUPPORT. Which writes each command makes, and what a command and a step can do. -/

namespace Sys2Proof.Machine

open Sys2Proof.Claims

variable {α β : Type} {w : Grants}

/-! ### Whole commands -/

/-- A command whose body is limited is limited. -/
theorem Limited.command {body : M Unit} (hb : Limited w body) {i : Instr} {check : State → Option ErrKind} {s : State} :
    ∃ t, command i check body s = .next t ∧ Writes w s t :=
  ⟨_, rfl, leads_runCommand (Writes.chains w) hb (fun s => .single (.err s _)) State.raised_writes
    (fun e s => .single (.err s e)) i s⟩

/-- What a command but DECFRAME and RESET may write. -/
def grantsOf (i : Instr) : Grants where
  cursor := movesCursor i
  arena := writesArena i
  output := writesOut i
  rotation := decide (i = .switchbuf)

theorem exec_writes (i : Instr) (s : State) (hframe : i ≠ .decframe) (hreset : i ≠ .reset) :
    ∃ t, exec i s = .next t ∧ Writes (grantsOf i) s t := by
  cases i with
  | decframe => exact absurd rfl hframe
  | reset => exact absurd rfl hreset
  | getbits n | getbitslong n | getbits64 n | getsbits n | getsbitslong n =>
    exact Limited.command (.bind (.readBits rfl) fun _ => .setRes)
  | showbits n | showbitslong n => exact Limited.command (.bind .showBits fun _ => .setRes)
  | skipbits n | skipbitslong n => exact Limited.command (.skipBits rfl)
  | align => exact Limited.command (.alignBits rfl)
  | getvlc2 t d b => exact Limited.command (.vlcToRes rfl)
  | bitscount | bitsleft => exact Limited.command (.bind .look fun _ => .setRes)
  | huffbuild t => exact Limited.command .huffBuild48
  | initvlc t => exact Limited.command .initVlc48
  | dechuffdesc t x c => exact Limited.command (.decodeHuffDesc rfl)
  | haar8 | haarrow8 | haarcol8 | slant8 | slantrow8 | slantcol8 | copy8 | haar4 | haarrow4 | haarcol4 | slant4
  | slantrow4 | slantcol4 => exact Limited.command (.runInvTx rfl)
  | dchaar8 | dchaar4 | dcslant8 | dcslant4 | dcrowslant8 | dcrowslant4 | dccolslant8 | dccolslant4 | dccopy8 =>
    exact Limited.command (.runDcTx rfl)
  | mc8nd t | mc8d t | mc4nd t | mc4d t => exact Limited.command (.runMc rfl)
  | mcavg8nd t t2 | mcavg8d t t2 | mcavg4nd t t2 | mcavg4d t t2 => exact Limited.command (.runMcAvg rfl)
  | dequant => exact Limited.command .dequantToRes
  | decblk p b => exact Limited.command (.finally' (.decodeBlock rfl rfl) State.releaseScratch_writes)
  | dcblk p b => exact Limited.command (.fillBlock rfl)
  | dectileblks p b => exact Limited.command (.finally' (.decodeTileBlocks rfl rfl) State.releaseScratch_writes)
  | emptytile p b => exact Limited.command (.emptyTile rfl)
  | decmbinfo p b => exact Limited.command (.decodeMbInfo rfl)
  | decband p b => exact Limited.command (.finally' (.decodeBand rfl rfl) State.releaseScratch_writes)
  | tilesize => exact Limited.command (.bind (.readTileSize rfl) fun _ => .setRes)
  | pichdr => exact Limited.command (.pictureHeader rfl rfl)
  | initplanes => exact Limited.command (.initPlanes rfl)
  | inittiles => exact Limited.command .initTiles
  | switchbuf => exact Limited.command (.update fun s => .rotate s rfl)
  | recomphaar | recomp53 => exact Limited.command (leads_update fun s => State.recompose_writes rfl s _)
  | outplane p b => exact Limited.command (leads_update fun s => State.outputPlane_writes rfl s _)
  | bandhdr p b => exact Limited.command (.bandHeader rfl)
  | gophdr => exact Limited.command (.gopHeader rfl rfl)

/-! ### The end of a frame -/

/-- `m` completes only in states that `P` holds of. -/
def Ends (P : State → Prop) (m : M α) : Prop := ∀ s a t, m s = .ok a t → P t

namespace Ends

variable {P : State → Prop}

theorem bind {m : M α} {f : α → M β} (hf : ∀ a, Ends P (f a)) : Ends P (m >>= f) := fun _ b t h => by
  obtain ⟨a, s', -, h⟩ := M.bind_eq_ok h
  exact hf a s' b t h

theorem ite {c : Prop} [Decidable c] {m n : M α} (hm : Ends P m) (hn : Ends P n) : Ends P (if c then m else n) := by
  split
  · exact hm
  · exact hn

theorem update {f : State → State} (hf : ∀ s, P (f s)) : Ends P (update f) := fun s _ _ h => by cases h; exact hf s

theorem finally' {m : M Unit} {after : State → State} (hm : Ends P m) (ha : ∀ s, P s → P (after s)) :
    Ends P (finally' m after) := fun s _ _ h => by
  unfold Machine.finally' at h
  cases hs : m s with
  | ok a s' => rw [hs] at h; cases h; exact ha s' (hm s _ s' hs)
  | error e s' => rw [hs] at h; cases h

/-- The sequencer is idle when a frame has completed (45_frame_engine.md R371). -/
theorem frameSteps : Ends State.IdleOk frameSteps := by
  have hidle : Ends State.IdleOk (goTo .idle) := .update fun _ => rfl
  have hcoded : Ends State.IdleOk codedFrame :=
    .bind fun _ => .bind fun _ => .bind fun _ => .bind fun _ => .bind fun _ => .bind fun _ => .bind fun _ =>
      .bind fun _ => .bind fun _ => .bind fun _ => .update fun _ => rfl
  have hnull : Ends State.IdleOk nullFrame := .bind fun _ => .bind fun _ => .bind fun _ => .bind fun _ => hidle
  exact .bind fun _ => .bind fun _ => .bind fun _ => .bind fun _ => .bind fun _ => .bind fun _ => .ite hidle <|
    .bind fun _ => .bind fun _ => .bind fun _ => .bind fun _ => .bind fun _ => .bind fun _ => .bind fun _ =>
      .ite hcoded hnull

end Ends

/-! ### Commands -/

/-- What a command can do: make its writes, bind a chunk, decode a frame, abort one (60_exceptions.md R410), or reset. -/
inductive Runs : Instr → State → State → Prop
  | writes {i : Instr} {s t : State} (hframe : i ≠ .decframe) (hreset : i ≠ .reset) (h : Writes (grantsOf i) s t) :
      Runs i s t
  | bound (s : State) : Runs .decframe s (s.bind s.opr.chunk s.opr.len).complete
  | frame {s t : State} (h : Writes .all (s.bind s.opr.chunk s.opr.len) t) (hidle : t.IdleOk) :
      Runs .decframe s t.complete
  | aborted {s t : State} (h : Writes .all (s.bind s.opr.chunk s.opr.len) t) (e : ErrKind) :
      Runs .decframe s ((frameAbort s t).raised e)
  | reset (s : State) : Runs .reset s s.resetState.complete

theorem decodeFrame_runs (s : State) : Runs .decframe s (runCommand .decframe noCheck (decodeFrame s.opr) s) := by
  have hw : Limited .all (finally' frameSteps State.releaseScratch) := .finally' .frameSteps State.releaseScratch_writes
  have hidle : Ends State.IdleOk (finally' frameSteps State.releaseScratch) :=
    .finally' .frameSteps fun s h => s.releaseScratch_fstep.trans h
  unfold runCommand decodeFrame onError
  simp only [noCheck, Instr.wellFormed, if_true]
  cases s.opr.mode with
  | bind => exact .bound s
  | full =>
    dsimp only
    cases hs : finally' frameSteps State.releaseScratch (s.bind s.opr.chunk s.opr.len) with
    | ok a t => exact .frame ((hw _).1 a t hs) (hidle _ a t hs)
    | error e t => exact .aborted ((hw _).2 e t hs) e

/-- Every command ends in a next state (60_exceptions.md R409), reached in one of these ways. -/
theorem exec_runs (i : Instr) (s : State) : ∃ t, exec i s = .next t ∧ Runs i s t := by
  by_cases hframe : i = .decframe
  · subst hframe
    exact ⟨_, rfl, decodeFrame_runs s⟩
  by_cases hreset : i = .reset
  · subst hreset
    exact ⟨_, rfl, .reset s⟩
  obtain ⟨t, h, hw⟩ := exec_writes i s hframe hreset
  exact ⟨t, h, .writes hframe hreset hw⟩

/-! ### Steps -/

/-- What every command keeps true, whatever the port and the operand record are, every step keeps true. -/
theorem step_keeps (P : State → Prop) (hport : ∀ s o l, P s → P { s with opr := o, port := l })
    (herr : ∀ s, P s → P s.illegalWord) (hruns : ∀ i s t, Runs i s t → P s → P t) {s t : State} (hs : P s)
    (h : step s = .next t) : P t := by
  rcases step_cases s with ⟨-, hw⟩ | ⟨c, rest, -, ⟨i, -, hw⟩ | ⟨e, -, hw⟩⟩ <;> rw [hw] at h
  · cases h
    exact hs
  · obtain ⟨u, hu, hr⟩ := exec_runs i { s with opr := c.opr, port := rest }
    obtain rfl : u = t := by rw [hu] at h; cases h; rfl
    exact hruns _ _ _ hr (hport s _ _ hs)
  · cases h
    exact herr _ (hport s _ _ hs)

/-! ### Parameters, cursor and tables -/

theorem Runs.params {i : Instr} {s t : State} (h : Runs i s t) : t.params = s.params := by
  cases h with
  | writes _ _ h => exact h.params
  | bound | reset => rfl
  | frame h _ | aborted h _ => exact h.params

theorem State.bind_cursorOk (s : State) (chunk : List Byte) (len : Nat) : (s.bind chunk len).CursorOk := Nat.zero_le _

theorem Runs.cursorOk {i : Instr} {s t : State} (h : Runs i s t) (hs : s.CursorOk) : t.CursorOk := by
  cases h with
  | writes _ _ h => exact h.cursorOk hs
  | bound => exact s.bind_cursorOk _ _
  | frame h _ | aborted h _ => exact h.cursorOk (s.bind_cursorOk _ _)
  | reset => exact Nat.zero_le _

theorem Runs.tablesOk {i : Instr} {s t : State} (h : Runs i s t) (hs : s.TablesOk) : t.TablesOk := by
  cases h with
  | writes _ _ h => exact h.tablesOk hs
  | bound => exact hs
  | frame h _ | aborted h _ => exact h.tablesOk (s := s.bind _ _) hs
  | reset => exact ⟨rfl, rfl, rfl⟩

/-! ### The rotation -/

theorem Rotation.reset_distinct : Rotation.reset.dstBuf ≠ Rotation.reset.refBuf ∧
    Rotation.reset.dstBuf ≠ Rotation.reset.bRefBuf ∧ Rotation.reset.refBuf ≠ Rotation.reset.bRefBuf := by decide

/-- Under INDEO4 the rotation keeps three different buffers different (45_frame_engine.md R363). -/
theorem advance_distinct (p : Params) (prev cur : BitVec 3) (r : Rotation) (hc : p.codec = .indeo4)
    (h : r.dstBuf ≠ r.refBuf ∧ r.dstBuf ≠ r.bRefBuf ∧ r.refBuf ≠ r.bRefBuf) :
    (advance p prev cur r).dstBuf ≠ (advance p prev cur r).refBuf ∧
    (advance p prev cur r).dstBuf ≠ (advance p prev cur r).bRefBuf ∧
    (advance p prev cur r).refBuf ≠ (advance p prev cur r).bRefBuf := by
  obtain ⟨href, hbref, hrefs⟩ := h
  unfold advance
  rw [hc]
  cases p.rotate4 with
  | standard =>
    dsimp only
    unfold rotate4
    split_ifs
    · exact ⟨href.symm, hrefs, hbref⟩
    · exact ⟨hbref.symm, hrefs.symm, href⟩
    · exact ⟨href, hbref, hrefs⟩
  | other n => exact ⟨Rotation.apart_dst_ne_ref _ _, Rotation.apart_indeo4 _⟩

theorem Writes.rotationOk {w : Grants} {s t : State} (h : Writes w s t) (hs : s.RotationOk) : t.RotationOk :=
  h.keeps State.RotationOk (fun s _ h hs => by
    cases h with
    | rotate => exact fun hc => advance_distinct _ _ _ _ hc (hs hc)
    | _ => exact hs) hs

theorem Runs.rotationOk {i : Instr} {s t : State} (h : Runs i s t) (hs : s.RotationOk) : t.RotationOk := by
  cases h with
  | writes _ _ h => exact h.rotationOk hs
  | bound => exact hs
  | frame h _ | aborted h _ => exact h.rotationOk (s := s.bind _ _) hs
  | reset => exact fun _ => Rotation.reset_distinct

theorem Runs.idleOk {i : Instr} {s t : State} (h : Runs i s t) (hs : s.IdleOk) : t.IdleOk := by
  cases h with
  | writes _ _ h => exact (h.sequencer rfl).1.trans hs
  | bound => exact hs
  | frame _ hidle => exact hidle
  | aborted | reset => rfl

end Sys2Proof.Machine
end

section
/-! The statements of 10_state.md: what every step keeps, and what each command leaves unchanged. -/

namespace Sys2Proof.Proofs.StateFamily

open Sys2Proof.Machine Sys2Proof.Claims

/-- Settles O57: a write moves the cursor only by a read within the padding. -/
theorem stepKeepsCursor : Obligations.StepKeepsCursor := fun _ _ hs h =>
  step_keeps State.CursorOk (fun _ _ _ h => h) (fun _ h => h) (fun _ _ _ hr => hr.cursorOk) hs h

/-- Settles O58: no write reaches the predefined tables, and corrections of a run-value map are undone on every exit. -/
theorem stepKeepsTables : Obligations.StepKeepsTables := fun _ _ hs h =>
  step_keeps State.TablesOk (fun _ _ _ h => h) (fun _ h => h) (fun _ _ _ hr => hr.tablesOk) hs h

/-- Settles O50, by the ways a command can run: RESET, DECFRAME and the writes that the command's grants allow. -/
theorem commandFrames : Obligations.CommandFrames := by
  intro i s
  obtain ⟨t, ht, hr⟩ := exec_runs i s
  refine ⟨t, ht, ?_⟩
  cases hr with
  | writes hframe hreset h =>
    obtain ⟨hfstep, habort, hvalid, hinvalid⟩ := h.sequencer rfl
    exact ⟨fun _ _ => ⟨hfstep, habort, hvalid, hinvalid, fun hsw => h.rot (decide_eq_false hsw)⟩, fun ho => h.out ho,
      fun ha => h.arena ha, fun hc => h.br hc, fun _ => ⟨h.predefMb, h.predefBlk⟩, h.params, h.port, h.opr, h.outPitch⟩
  | bound =>
    exact ⟨fun hn => absurd rfl hn, fun _ => rfl, fun _ => rfl, fun hc => (by cases hc), fun _ => ⟨rfl, rfl⟩, rfl, rfl,
      rfl, rfl⟩
  | frame h _ | aborted h _ =>
    exact ⟨fun hn => absurd rfl hn, fun ho => (by cases ho), fun ha => (by cases ha), fun hc => (by cases hc),
      fun _ => ⟨h.predefMb, h.predefBlk⟩, h.params, h.port, h.opr, h.outPitch⟩
  | reset =>
    exact ⟨fun _ hn => absurd rfl hn, fun ho => (by cases ho), fun ha => (by cases ha), fun hc => (by cases hc),
      fun hn => absurd rfl hn, rfl, rfl, rfl, rfl⟩

/-- Settles O59: only SWITCHBUF and DECFRAME write the rotation, by `advance`; a frame that ends leaves FSTEP idle. -/
theorem stepKeepsRegisters : Obligations.StepKeepsRegisters := fun s _ h =>
  ⟨fun hs => step_keeps State.RotationOk (fun _ _ _ h => h) (fun _ h => h) (fun _ _ _ hr => hr.rotationOk) hs h,
   fun hs => step_keeps State.IdleOk (fun _ _ _ h => h) (fun _ h => h) (fun _ _ _ hr => hr.idleOk) hs h,
   step_keeps (fun t => t.params = s.params) (fun _ _ _ h => h) (fun _ h => h) (fun _ _ _ hr => hr.params.trans) rfl h⟩

end Sys2Proof.Proofs.StateFamily
end

section
/-! SUPPORT. The word STATUS (10_state.md R32) and the state RESET leaves (70_reset_and_hazards.md R441). -/

namespace Sys2Proof.Machine

open Sys2Proof.Claims

/-! ### STATUS -/

/-- Each error kind stands with its code in the list of 60_exceptions.md R401. -/
theorem ErrKind.mem_errCodes (e : ErrKind) : (e, e.code.toNat) ∈ errCodes := by cases e <;> decide

/-- The word STATUS as a number: none of its parts is cut off. -/
theorem State.statusWord_toNat (s : State) :
    s.statusWord.toNat = s.err.code.toNat + s.frameAborted.toNat * 2 ^ 8 + s.outValid.toNat * 2 ^ 9
      + (decide (s.alloc = .allocated)).toNat * 2 ^ 10 := by
  have hc := s.err.code.isLt
  have hf := s.frameAborted.toNat_le
  have ho := s.outValid.toNat_le
  have ha := (decide (s.alloc = .allocated)).toNat_le
  unfold State.statusWord
  rw [BitVec.toNat_ofNat]
  exact Nat.mod_eq_of_lt (by omega)

theorem State.statusWord_lt (s : State) : s.statusWord.toNat < 2 ^ 11 := by
  have hc := s.err.code.isLt
  have hf := s.frameAborted.toNat_le
  have ho := s.outValid.toNat_le
  have ha := (decide (s.alloc = .allocated)).toNat_le
  rw [s.statusWord_toNat]
  omega

theorem State.statusWord_err (s : State) : s.statusWord.extractLsb' 0 8 = s.err.code := by
  have hc := s.err.code.isLt
  refine BitVec.eq_of_toNat_eq ?_
  rw [BitVec.extractLsb'_toNat, s.statusWord_toNat, Nat.shiftRight_zero]
  omega

theorem State.statusWord_bits (s : State) :
    s.statusWord.getLsbD 8 = s.frameAborted ∧ s.statusWord.getLsbD 9 = s.outValid ∧
    s.statusWord.getLsbD 10 = decide (s.alloc = .allocated) := by
  have hc := s.err.code.isLt
  have hf := s.frameAborted.toNat_le
  have ho := s.outValid.toNat_le
  have ha := (decide (s.alloc = .allocated)).toNat_le
  have bit (i : Nat) (b : Bool) (h : s.statusWord.toNat / 2 ^ i % 2 = b.toNat) : s.statusWord.getLsbD i = b := by
    rw [← BitVec.testBit_toNat, Nat.testBit_eq_decide_div_mod_eq, h]
    simp
  refine ⟨bit 8 _ ?_, bit 9 _ ?_, bit 10 _ ?_⟩ <;> rw [s.statusWord_toNat] <;> omega

theorem State.statusWord_zero {s : State} (he : s.err = .none) (hf : s.frameAborted = false) (ho : s.outValid = false)
    (ha : s.alloc = .uninit) : s.statusWord = 0 :=
  BitVec.eq_of_toNat_eq (by rw [s.statusWord_toNat]; simp [he, hf, ho, ha, ErrKind.code])

/-! ### The reset state -/

theorem exec_reset (s : State) : exec .reset s = .next s.resetState.complete := rfl

/-- No plane has a band after a reset. -/
theorem resetWith_plane_bands (p : Params) (i : Fin 3) : (State.resetWith p).planes[i].bands = [] := by
  simp [State.resetWith, Plane.none]

theorem resetWith_bandOpt (p : Params) (i b : Nat) : (State.resetWith p).band? i b = none := by
  match i with
  | 0 | 1 | 2 => rfl
  | _ + 3 => rfl

theorem resetWith_hasBuffer (p : Params) (i b k : Nat) : (State.resetWith p).hasBuffer i b k = false := by
  simp only [State.hasBuffer, State.buffer?]
  split <;> rfl

end Sys2Proof.Machine

namespace Sys2Proof.Proofs.StateFamily

open Sys2Proof.Machine Sys2Proof.Claims

/-- Settles O54: the parts of STATUS do not overlap, and RESET leaves the reset state. -/
theorem resetLeaves : Obligations.ResetLeaves := by
  refine ⟨fun s => ?_, fun s => ⟨s.resetState.complete, exec_reset s, ?_⟩⟩
  · obtain ⟨haborted, hvalid, halloc⟩ := s.statusWord_bits
    exact ⟨s.statusWord_err, ⟨_, s.err.mem_errCodes, rfl, rfl⟩, haborted, hvalid, halloc, s.statusWord_lt⟩
  · have hregs (h : HuffTab) (hh : h = HuffTab.reset .mb ∨ h = HuffTab.reset .blk) :
        h.tabSel = 7 ∧ h.custDesc.numRows = 0 ∧ h.custTab = none := by
      rcases hh with rfl | rfl <;> exact ⟨rfl, rfl, rfl⟩
    exact ⟨rfl, rfl, rfl, rfl, State.statusWord_zero rfl rfl rfl rfl, rfl, rfl, rfl, rfl, rfl,
      fun k => Vector.getElem_replicate k.isLt, rfl, rfl, rfl, hregs, rfl, rfl, rfl, ⟨rfl, rfl, rfl⟩,
      resetWith_plane_bands s.params, resetWith_hasBuffer s.params, rfl, rfl, rfl, rfl, rfl⟩

end Sys2Proof.Proofs.StateFamily
end

section
/-! SUPPORT. Building a table from a descriptor (41_vlc.md R171 to R173): when the rows build, how long their codes are,
and that no code begins another. -/

namespace Sys2Proof.Machine

/-! ### The codes of a row -/

/-- The `len` lowest bits tell the values below `2 ^ len` apart. -/
theorem msbFirst_inj {len j k : Nat} (hj : j < 2 ^ len) (hk : k < 2 ^ len) (h : msbFirst j len = msbFirst k len) :
    j = k := by
  refine Nat.eq_of_testBit_eq fun b => ?_
  by_cases hb : b < len
  · have hbit := List.map_inj_left.mp h (len - 1 - b) (List.mem_range.mpr (by omega))
    rwa [show len - 1 - (len - 1 - b) = b by omega] at hbit
  · have hpow : 2 ^ len ≤ 2 ^ b := Nat.pow_le_pow_right (by decide) (by omega)
    rw [Nat.testBit_lt_two_pow (by omega), Nat.testBit_lt_two_pow (by omega)]

@[simp] theorem msbFirst_length (v len : Nat) : (msbFirst v len).length = len := by simp [msbFirst]

/-- The bits of code `j` of row `i` as R172 writes them, before the one empty code is made the bit 0. -/
def rowBits (i x : Nat) (last : Bool) (j : Nat) : List Bool :=
  List.replicate i true ++ (if last then [] else [false]) ++ msbFirst j x

/-- The length of the codes of row `i` (R171). -/
def rowLength (i x : Nat) (last : Bool) : Nat := i + x + (if last then 0 else 1)

theorem rowBits_length (i x : Nat) (last : Bool) (j : Nat) : (rowBits i x last j).length = rowLength i x last := by
  cases last <;> simp +arith [rowBits, rowLength]

theorem rowBits_eq_nil {i x j : Nat} {last : Bool} : rowBits i x last j = [] ↔ i = 0 ∧ last = true ∧ x = 0 := by
  rw [← List.length_eq_zero_iff, rowBits_length]
  cases last <;> simp [rowLength]

theorem rowCode_eq (i x : Nat) (last : Bool) (j : Nat) :
    rowCode i x last j = if rowBits i x last j = [] then [false] else rowBits i x last j := by
  unfold rowCode rowBits
  split <;> simp_all

theorem rowCode_ne_nil (i x : Nat) (last : Bool) (j : Nat) : rowCode i x last j ≠ [] := by
  rw [rowCode_eq]
  split_ifs with h
  · simp
  · exact h

theorem rowCode_length (i x : Nat) (last : Bool) (j : Nat) :
    (rowCode i x last j).length = max 1 (rowLength i x last) := by
  rw [rowCode_eq, ← rowBits_length i x last j]
  split_ifs with h
  · rw [h]
    rfl
  · have hpos := List.length_pos_iff.mpr h
    omega

/-- Row `i` begins with `i` one-bits. -/
theorem replicate_prefix_rowCode (i x : Nat) (last : Bool) (j : Nat) :
    List.replicate i true <+: rowCode i x last j := by
  rw [rowCode_eq]
  split_ifs with h
  · simp [(rowBits_eq_nil.mp h).1]
  · exact ⟨_, (List.append_assoc ..).symm⟩

/-- A row that is not the last goes on with a zero bit. -/
theorem zero_prefix_rowCode (i x j : Nat) : List.replicate i true ++ [false] <+: rowCode i x false j := by
  rw [rowCode_eq, if_neg (by simp [rowBits])]
  exact ⟨_, rfl⟩

theorem rowCode_inj {i x j k : Nat} {last : Bool} (hj : j < 2 ^ x) (hk : k < 2 ^ x)
    (h : rowCode i x last j = rowCode i x last k) : j = k := by
  have hlen : (rowBits i x last j).length = (rowBits i x last k).length := by simp only [rowBits_length]
  rw [rowCode_eq, rowCode_eq] at h
  split_ifs at h with h1 h2 h2
  · obtain ⟨-, -, rfl⟩ := rowBits_eq_nil.mp h1
    omega
  · exact absurd (List.length_eq_zero_iff.mp (by rw [← hlen, h1]; rfl)) h2
  · exact absurd (List.length_eq_zero_iff.mp (by rw [hlen, h2]; rfl)) h1
  · exact msbFirst_inj hj hk (List.append_cancel_left h)

/-! ### Codes of which none begins the other -/

/-- Neither code equals or begins the other (41_vlc.md R175). -/
def VlcCode.Apart (c d : VlcCode) : Prop := ¬c.bits <+: d.bits ∧ ¬d.bits <+: c.bits

theorem prefixFree_iff {l : List VlcCode} : prefixFree l = true ↔ l.Pairwise VlcCode.Apart := by
  induction l with
  | nil => simp [prefixFree]
  | cons c l ih => simp [prefixFree, ih, VlcCode.Apart, ← Bool.not_eq_true]

/-- Codes that differ after a common beginning are apart. -/
theorem VlcCode.Apart.of_branch {c d : VlcCode} {l : List Bool} (hc : l ++ [false] <+: c.bits)
    (hd : l ++ [true] <+: d.bits) : c.Apart d := by
  have clash (b : List Bool) (h0 : l ++ [false] <+: b) (h1 : l ++ [true] <+: b) : False := by
    have heq := (List.prefix_of_prefix_length_le h0 h1 (by simp)).eq_of_length (by simp)
    simp at heq
  exact ⟨fun h => clash _ (hc.trans h) hd, fun h => clash _ hc (hd.trans h)⟩

/-- The codes of one row are apart. -/
theorem rowCodes_pairwise (i x : Nat) (last : Bool) (pos : Nat) {n : Nat} (hn : n ≤ 2 ^ x) :
    (rowCodes i x last pos n).Pairwise VlcCode.Apart := by
  refine List.pairwise_map.mpr (List.Pairwise.imp_of_mem ?_ List.pairwise_lt_range)
  intro j k hj hk hjk
  have hj' := List.mem_range.mp hj
  have hk' := List.mem_range.mp hk
  have hne : rowCode i x last j ≠ rowCode i x last k := fun h =>
    absurd (rowCode_inj (by omega) (by omega) h) (by omega)
  have hlen : (rowCode i x last j).length = (rowCode i x last k).length := by simp only [rowCode_length]
  exact ⟨fun h => hne (h.eq_of_length hlen), fun h => hne (h.eq_of_length hlen.symm).symm⟩

/-! ### Rows -/

/-- What the first row of a build that succeeds gives: some of its codes, then the codes of the other rows or, where
`P_OVER256` truncates, none (41_vlc.md R171). -/
theorem buildRows_cons_ok {policy : Over256} {maxLen i x pos : Nat} {xs : List Nat} {codes : List VlcCode}
    (h : buildRows policy maxLen i (x :: xs) pos = .ok codes) :
    ∃ n rest, n ≤ 2 ^ x ∧ codes = rowCodes i x xs.isEmpty pos n ++ rest ∧
      (rest = [] ∨ buildRows policy maxLen (i + 1) xs (pos + 2 ^ x) = .ok rest) := by
  unfold buildRows at h
  dsimp only at h
  by_cases hroom : Config.maxCodes - pos = 0
  · rw [if_pos hroom] at h
    cases policy with
    | error => cases h
    | truncate => cases h; exact ⟨0, [], Nat.zero_le _, rfl, .inl rfl⟩
  rw [if_neg hroom] at h
  by_cases hlong : maxLen < i + x + (if xs.isEmpty then 0 else 1)
  · rw [if_pos hlong] at h
    cases h
  rw [if_neg hlong] at h
  by_cases hmany : Config.maxCodes - pos < 2 ^ x
  · rw [if_pos hmany] at h
    cases policy with
    | error => cases h
    | truncate => cases h; exact ⟨_, [], hmany.le, (List.append_nil _).symm, .inl rfl⟩
  · rw [if_neg hmany] at h
    cases hrest : buildRows policy maxLen (i + 1) xs (pos + 2 ^ x) with
    | error e => rw [hrest] at h; cases h
    | ok rest => rw [hrest] at h; cases h; exact ⟨_, rest, le_rfl, rfl, .inr rfl⟩

/-- The rows from `i` on build codes that are apart and begin with `i` one-bits. -/
theorem buildRows_apart {policy : Over256} {maxLen : Nat} {xs : List Nat} :
    ∀ {i pos : Nat} {codes : List VlcCode}, buildRows policy maxLen i xs pos = .ok codes →
      codes.Pairwise VlcCode.Apart ∧ ∀ c ∈ codes, List.replicate i true <+: c.bits := by
  induction xs with
  | nil =>
    intro i pos codes h
    cases h
    simp
  | cons x xs ih =>
    intro i pos codes h
    obtain ⟨n, rest, hn, rfl, hrest⟩ := buildRows_cons_ok h
    have hrow : ∀ c ∈ rowCodes i x xs.isEmpty pos n, List.replicate i true <+: c.bits := by
      intro c hc
      obtain ⟨j, -, rfl⟩ := List.mem_map.mp hc
      exact replicate_prefix_rowCode ..
    rcases hrest with rfl | hrest
    · simpa using And.intro (rowCodes_pairwise i x xs.isEmpty pos hn) hrow
    · obtain ⟨hpair, hones⟩ := ih hrest
      have hcross : ∀ c ∈ rowCodes i x xs.isEmpty pos n, ∀ d ∈ rest, c.Apart d := by
        intro c hc d hd
        obtain ⟨j, -, rfl⟩ := List.mem_map.mp hc
        cases xs with
        | nil => cases hrest; cases hd
        | cons y ys =>
          refine .of_branch (zero_prefix_rowCode i x j) ?_
          rw [← List.replicate_succ']
          exact hones d hd
      refine ⟨List.pairwise_append.mpr ⟨rowCodes_pairwise i x _ pos hn, hpair, hcross⟩, fun c hc => ?_⟩
      rcases List.mem_append.mp hc with hc | hc
      · exact hrow c hc
      · exact ((List.prefix_append _ [true]).trans (List.replicate_succ' .. ▸ hones c hc))

/-- Each row from `i` on meets the length test of R171 for codes of at most `len` bits. -/
def rowsFit (len : Nat) : Nat → List Nat → Bool
  | _, [] => true
  | i, x :: xs => decide (rowLength i x xs.isEmpty ≤ len) && rowsFit len (i + 1) xs

/-- Rows that fit give codes that fit. -/
theorem buildRows_length {policy : Over256} {maxLen len : Nat} (hlen : 1 ≤ len) {xs : List Nat} :
    ∀ {i pos : Nat} {codes : List VlcCode}, rowsFit len i xs = true → buildRows policy maxLen i xs pos = .ok codes →
      ∀ c ∈ codes, c.bits ≠ [] ∧ c.bits.length ≤ len := by
  induction xs with
  | nil =>
    intro i pos codes _ h c hc
    cases h
    cases hc
  | cons x xs ih =>
    intro i pos codes hfit h c hc
    simp only [rowsFit, Bool.and_eq_true, decide_eq_true_eq] at hfit
    obtain ⟨n, rest, -, rfl, hrest⟩ := buildRows_cons_ok h
    rcases List.mem_append.mp hc with hc | hc
    · obtain ⟨j, -, rfl⟩ := List.mem_map.mp hc
      exact ⟨rowCode_ne_nil _ _ _ _, by rw [rowCode_length]; exact max_le hlen hfit.1⟩
    · rcases hrest with rfl | hrest
      · cases hc
      · exact ih hfit.2 hrest c hc

/-- Rows that fit build when they give at most 256 codes, or when the codes past 256 are cut off. -/
theorem buildRows_ok {policy : Over256} {maxLen len : Nat} (hlen : len ≤ maxLen) {xs : List Nat} :
    ∀ {i pos : Nat}, rowsFit len i xs = true →
      (policy = .truncate ∨ pos + (xs.map fun x => 2 ^ x).sum ≤ Config.maxCodes) →
      ∃ codes, buildRows policy maxLen i xs pos = .ok codes := by
  induction xs with
  | nil => exact fun _ _ => ⟨[], rfl⟩
  | cons x xs ih =>
    intro i pos hfit hcount
    simp only [rowsFit, Bool.and_eq_true, decide_eq_true_eq] at hfit
    obtain ⟨hrow, hrows⟩ := hfit
    have hx : 0 < 2 ^ x := Nat.two_pow_pos x
    have hrest : policy = .truncate ∨ pos + 2 ^ x + (xs.map fun x => 2 ^ x).sum ≤ Config.maxCodes := by
      refine hcount.imp_right fun h => ?_
      rw [List.map_cons, List.sum_cons] at h
      omega
    obtain ⟨codes, hcodes⟩ := ih hrows hrest
    have hshort : ¬maxLen < i + x + (if xs.isEmpty then 0 else 1) := by
      unfold rowLength at hrow
      exact not_lt.mpr (hrow.trans hlen)
    unfold buildRows
    dsimp only
    rw [hcodes, if_neg hshort]
    rcases hrest with rfl | hrest
    · split_ifs <;> exact ⟨_, rfl⟩
    · rw [if_neg (by omega), if_neg (by omega)]
      exact ⟨_, rfl⟩

/-- A descriptor whose rows fit 13 bits builds, and its codes have at most 13 bits. -/
theorem huffBuild_ok (p : Params) (d : HuffDesc) (hlen : 13 ≤ p.maxCodeLenIvi) (hfit : rowsFit 13 0 (descRows d) = true)
    (hcount : p.over256 = .truncate ∨ ((descRows d).map fun x => 2 ^ x).sum ≤ Config.maxCodes) :
    ∃ tbl, huffBuild p d = .ok tbl ∧ ∀ c ∈ tbl.codes, c.bits.length ≤ 13 := by
  obtain ⟨codes, hcodes⟩ := buildRows_ok (pos := 0) hlen hfit (hcount.imp_right fun h => by omega)
  have hbits := buildRows_length (by decide) hfit hcodes
  have hkept : codes.filter (fun c => !c.bits.isEmpty) = codes :=
    List.filter_eq_self.mpr fun c hc => by simp [(hbits c hc).1]
  have hlong : (codes.any fun c => decide (Config.maxCodeLen < c.bits.length)) = false :=
    List.any_eq_false.mpr fun c hc => by simp [Config.maxCodeLen, (hbits c hc).2.trans (show 13 ≤ 32 by decide)]
  refine ⟨⟨13, codes⟩, ?_, fun c hc => (hbits c hc).2⟩
  simp [huffBuild, initVlc, hcodes, hkept, hlong, prefixFree_iff.mpr (buildRows_apart hcodes).1,
    Config.vlcBits, Config.maxTableBits]

/-! ### The predefined tables -/

theorem predefTable_eq (p : Params) (d : HuffDesc) : predefTable p d = (huffBuild p d).toOption := by
  unfold predefTable
  cases huffBuild p d <;> rfl

theorem predefMbTables_get (p : Params) (i : Fin 8) :
    (predefMbTables p)[i] = (huffBuild p p.predefMbDesc[i]).toOption := by
  rw [← predefTable_eq]
  simp [predefMbTables]

/-- The last block table is built as R171 says too, where it is another descriptor or the codes past 256 are cut off
(log 42). -/
theorem predefBlkLast_eq (p : Params)
    (h : descSame p.predefBlkDesc[7] defaultBlkDesc[7] = false ∨ p.over256 = .truncate) :
    predefBlkLast p = (huffBuild p p.predefBlkDesc[7]).toOption := by
  rw [← predefTable_eq]
  unfold predefBlkLast
  split_ifs with hd
  · rcases h with h | h
    · exact absurd hd (by simp [defaultLast, h])
    · rw [← h]
  · rfl

theorem predefBlkTables_eq (p : Params) (i : Fin 8)
    (h : i ≠ 7 ∨ descSame p.predefBlkDesc[i] defaultBlkDesc[i] = false ∨ p.over256 = .truncate) :
    (predefBlkTables p)[i] = (huffBuild p p.predefBlkDesc[i]).toOption := by
  by_cases hi : i = 7
  · subst hi
    exact (predefBlkTables_last p).trans (predefBlkLast_eq p (h.resolve_left fun h => h rfl))
  · rw [predefBlkTables_get p i hi, predefTable_eq]

/-- The default macroblock descriptors fit, and give at most 256 codes each (41_vlc.md R182). -/
theorem defaultMbDesc_fits (i : Fin 8) : rowsFit 13 0 (descRows defaultMbDesc[i]) = true ∧
    ((descRows defaultMbDesc[i]).map fun x => 2 ^ x).sum ≤ Config.maxCodes := by
  revert i
  decide

/-- The default block descriptors fit, and all but the last give at most 256 codes each (41_vlc.md R182). -/
theorem defaultBlkDesc_fits (i : Fin 8) : rowsFit 13 0 (descRows defaultBlkDesc[i]) = true ∧
    (i ≠ 7 → ((descRows defaultBlkDesc[i]).map fun x => 2 ^ x).sum ≤ Config.maxCodes) := by
  revert i
  decide

/-- The default macroblock descriptors give 8 tables. -/
theorem predefMb_default (p : Params) (hmb : p.predefMbDesc = defaultMbDesc) (hlen : 13 ≤ p.maxCodeLenIvi) (i : Fin 8) :
    ∃ tbl, (predefMbTables p)[i] = some tbl ∧ ∀ c ∈ tbl.codes, c.bits.length ≤ 13 := by
  obtain ⟨hfit, hcount⟩ := defaultMbDesc_fits i
  obtain ⟨tbl, htbl, hbits⟩ := huffBuild_ok p defaultMbDesc[i] hlen hfit (.inr hcount)
  exact ⟨tbl, by rw [predefMbTables_get, hmb, htbl]; rfl, hbits⟩

/-- The default block descriptors give 8 tables, the last of them with the codes past 256 cut off (log 42). -/
theorem predefBlk_default (p : Params) (hblk : p.predefBlkDesc = defaultBlkDesc) (hlen : 13 ≤ p.maxCodeLenIvi)
    (i : Fin 8) : ∃ tbl, (predefBlkTables p)[i] = some tbl ∧ ∀ c ∈ tbl.codes, c.bits.length ≤ 13 := by
  obtain ⟨hfit, hcount⟩ := defaultBlkDesc_fits i
  by_cases hi : i = 7
  · subst hi
    obtain ⟨tbl, htbl, hbits⟩ := huffBuild_ok { p with over256 := .truncate } defaultBlkDesc[7] hlen hfit (.inl rfl)
    refine ⟨tbl, ?_, hbits⟩
    have hlast : defaultLast p = true := by
      unfold defaultLast
      rw [hblk]
      simp [descSame]
    rw [predefBlkTables_last, predefBlkLast, if_pos hlast, predefTable_eq,
      show p.predefBlkDesc[7] = defaultBlkDesc[7] by rw [hblk], htbl]
    rfl
  · obtain ⟨tbl, htbl, hbits⟩ := huffBuild_ok p defaultBlkDesc[i] hlen hfit (.inr (hcount hi))
    exact ⟨tbl, by rw [predefBlkTables_get p i hi, predefTable_eq, hblk, htbl]; rfl, hbits⟩

end Sys2Proof.Machine

namespace Sys2Proof.Proofs.StateFamily

open Sys2Proof.Machine Sys2Proof.Claims

/-- Settles O55: the invariants hold of empty planes and memory, and the default descriptors build. -/
theorem resetMeetsInvariants : Obligations.ResetMeetsInvariants := by
  intro p
  have hgeometry : (State.resetWith p).GeometryOk :=
    ⟨fun i b bd h => by simp [resetWith_bandOpt] at h, fun b x y h => by simp [resetWith_bandOpt] at h⟩
  refine ⟨⟨Memory.wf_empty, Nat.zero_le _, ⟨rfl, rfl, rfl⟩, fun _ => Rotation.reset_distinct, rfl, hgeometry⟩,
    fun i => ⟨predefMbTables_get p i, predefBlkTables_eq p i⟩, fun hmb hblk hlen i t ht => ?_⟩
  rcases ht with rfl | rfl
  · exact predefMb_default p hmb hlen i
  · exact predefBlk_default p hblk hlen i

end Sys2Proof.Proofs.StateFamily
end

section
/-! SUPPORT. What every write, command and step keeps of the canonical form of the memory (20_memory.md R83 to R85), and
what a step does with the next command word (R91). -/

namespace Sys2Proof.Machine

/-! ### The canonical form of the memory -/

/-- A write stores into the arena and the output planes only by operations that keep the canonical form. -/
theorem Write.memoryOk {w : Grants} {s t : State} (h : Write w s t) (hs : s.MemoryOk) : t.MemoryOk := by
  cases h with
  | allocate cfg => exact State.wf_allocate cfg hs
  | deallocate => exact State.wf_deallocate hs
  | buffer p b k buf _ hbuf => exact State.wf_setBuffer p b k hs (hbuf (State.bufWf_bufferOf hs p b k))
  | output i stores => exact State.wf_setOut i hs (cellsSorted_storeBytes stores (State.sorted_outPlane hs i))
  | _ => exact hs

theorem Writes.memoryOk {w : Grants} {s t : State} (h : Writes w s t) (hs : s.MemoryOk) : t.MemoryOk :=
  h.keeps State.MemoryOk (fun _ _ => Write.memoryOk) hs

/-- An aborted frame leaves the arena of the raise and the output planes from before it (60_exceptions.md R410). -/
theorem frameAbort_memoryOk {before s : State} (hbefore : before.MemoryOk) (hs : s.MemoryOk) :
    (frameAbort before s).MemoryOk := by
  obtain ⟨hkeys, hbufs, -⟩ := Memory.wf_iff.mp hs
  obtain ⟨-, -, hout⟩ := Memory.wf_iff.mp hbefore
  exact Memory.wf_iff.mpr ⟨hkeys, hbufs, hout⟩

theorem Runs.memoryOk {i : Instr} {s t : State} (h : Runs i s t) (hs : s.MemoryOk) : t.MemoryOk := by
  cases h with
  | writes _ _ h => exact h.memoryOk hs
  | bound => exact hs
  | frame h _ => exact h.memoryOk (s := s.bind _ _) hs
  | aborted h e => exact frameAbort_memoryOk hs (h.memoryOk (s := s.bind _ _) hs)
  | reset => exact Memory.wf_empty

/-! ### The next command -/

theorem State.nextCommand_nil {s : State} (h : s.port = []) : s.nextCommand = none := by
  unfold State.nextCommand
  rw [h]

theorem State.nextCommand_cons {s : State} {c : HostCmd} {rest : List HostCmd} (h : s.port = c :: rest) :
    s.nextCommand = some (c.cw, { s with opr := c.opr, port := rest }) := by
  unfold State.nextCommand
  rw [h]

theorem runWord_ok {cw : CommandWord} {i : Instr} (h : decode cw = .ok i) (s : State) : runWord cw s = exec i s := by
  unfold runWord
  rw [h]

end Sys2Proof.Machine

namespace Sys2Proof.Proofs.MemoryFamily

open Sys2Proof.Machine Sys2Proof.Claims

/-- Settles O56: a write to the memory is one of the operations that keep the canonical form, and the output planes a
frame abort puts back had it when the frame began. -/
theorem stepKeepsMemory : Obligations.StepKeepsMemory := fun _ _ hs h =>
  step_keeps State.MemoryOk (fun _ _ _ h => h) (fun _ h => h) (fun _ _ _ hr => hr.memoryOk) hs h

/-- Settles O4: with a command at the port a step runs its word, and with none it waits. -/
theorem stepRunsDecoded : Obligations.StepRunsDecoded := by
  refine ⟨fun s c rest i hport hdecode => ?_, fun s hport => ?_⟩
  · unfold step
    rw [State.nextCommand_cons hport]
    exact runWord_ok hdecode _
  · unfold step
    rw [State.nextCommand_nil hport]

end Sys2Proof.Proofs.MemoryFamily
end

section
/-! SUPPORT. The bits of the stream (20_memory.md R81) and the number the next bits make (R82), bit by bit and as a sum. -/

namespace Sys2Proof.Machine

open Sys2Proof.Claims

/-! ### BsBit -/

theorem streamBit_of_byte {bytes : List Byte} {i : Nat} {v : Byte} (h : bytes[i / 8]? = some v) (order : BitOrder) :
    streamBit order bytes i = some (match order with
      | .le => v.toNat.testBit (i % 8)
      | .be => v.toNat.testBit (7 - i % 8)) := by
  unfold streamBit
  rw [h]
  cases order <;> simp only [BitVec.testBit_toNat]

/-- A bit below `BR.size_bits` is the chunk's. -/
theorem State.bsBit_of_lt {s : State} {i : Nat} {bytes : List Byte} (hi : i < s.br.sizeBits)
    (hbuf : s.br.buf = some bytes) : s.bsBit i = streamBit s.params.bitOrder bytes i := by
  unfold State.bsBit
  rw [if_pos hi, hbuf]

/-- From `BR.size_bits` on every bit is a draw. -/
theorem State.bsBit_of_le {s : State} {i : Nat} (hi : s.br.sizeBits ≤ i) : s.bsBit i = none :=
  if_neg (Nat.not_lt.mpr hi)

theorem State.bitAhead_of_draw {s : State} {k : Nat} (h : s.bsBit (s.br.index + k) = none) :
    s.bitAhead k = Config.freeBit (s.draws + k) := by
  unfold State.bitAhead
  rw [h]
  rfl

/-! ### Bits as a number -/

theorem bitsLE_eq_sum (f : Nat → Bool) (n : Nat) :
    bitsLE ((List.range n).map f) = ∑ k ∈ Finset.range n, (f k).toNat * 2 ^ k := by
  induction n generalizing f with
  | zero => rfl
  | succ n ih =>
    rw [List.range_succ_eq_map, List.map_cons, List.map_map, bitsLE, ih, Finset.sum_range_succ', Finset.mul_sum,
      Nat.add_comm, pow_zero, Nat.mul_one]
    congr 1
    refine Finset.sum_congr rfl fun k _ => ?_
    rw [pow_succ', Function.comp_apply]
    exact Nat.mul_left_comm ..

theorem bitsBE_eq_sum (f : Nat → Bool) (n : Nat) :
    bitsBE ((List.range n).map f) = ∑ k ∈ Finset.range n, (f k).toNat * 2 ^ (n - 1 - k) := by
  induction n generalizing f with
  | zero => rfl
  | succ n ih =>
    rw [List.range_succ_eq_map, List.map_cons, List.map_map, bitsBE, ih, Finset.sum_range_succ', List.length_map,
      List.length_range, Nat.add_comm]
    congr 1
    refine Finset.sum_congr rfl fun k _ => ?_
    rw [show n + 1 - 1 - (k + 1) = n - 1 - k by omega, Function.comp_apply]

theorem testBit_bitsLE (bs : List Bool) (k : Nat) : (bitsLE bs).testBit k = bs[k]?.getD false := by
  induction bs generalizing k with
  | nil => simp [bitsLE]
  | cons b bs ih =>
    cases k with
    | zero => cases b <;> simp [bitsLE, Nat.testBit_zero]
    | succ k =>
      have hhalf : (b.toNat + 2 * bitsLE bs) / 2 = bitsLE bs := by have := b.toNat_le; omega
      rw [bitsLE, Nat.testBit_succ, hhalf, ih, List.getElem?_cons_succ]

/-- Bit `i` of the integer is bit `i mod 8` of byte `i / 8`, as `BsBit` reads it under LE. -/
theorem testBit_leInteger (bytes : List Byte) (i : Nat) :
    (leInteger bytes).testBit i = (streamBit .le bytes i).getD false := by
  induction bytes generalizing i with
  | nil => simp [leInteger, streamBit]
  | cons b bytes ih =>
    rw [leInteger, show b.toNat + 256 * leInteger bytes = 2 ^ 8 * leInteger bytes + b.toNat by omega,
      Nat.testBit_two_pow_mul_add _ b.isLt]
    split_ifs with hi
    · rw [streamBit_of_byte (v := b) (by rw [Nat.div_eq_of_lt hi]; rfl), Nat.mod_eq_of_lt hi]
      rfl
    · obtain ⟨j, rfl⟩ := Nat.exists_eq_add_of_le' (Nat.not_lt.mp hi)
      rw [Nat.add_sub_cancel, ih]
      simp only [streamBit, Nat.add_mod_right, Nat.add_div_right _ (show 0 < 8 by decide),
        List.getElem?_cons_succ]

/-! ### Peek -/

theorem State.peek_le {s : State} (h : s.params.bitOrder = .le) (n : Nat) : s.peek n = bitsLE (s.bitsAhead n) := by
  unfold State.peek
  rw [h]
  rfl

theorem State.peek_be {s : State} (h : s.params.bitOrder = .be) (n : Nat) : s.peek n = bitsBE (s.bitsAhead n) := by
  unfold State.peek
  rw [h]
  rfl

/-- Under LE, bit `k` of `Peek(n)` is the bit `k` places after the cursor. -/
theorem State.testBit_peek_le {s : State} (h : s.params.bitOrder = .le) (n k : Nat) :
    (s.peek n).testBit k = (decide (k < n) && s.bitAhead k) := by
  rw [State.peek_le h, testBit_bitsLE, State.bitsAhead]
  by_cases hk : k < n <;> simp [hk]

/-- Under LE, a bit ahead within the buffer is a bit of the buffer's integer. -/
theorem State.bitAhead_eq_testBit_leInteger {s : State} {bytes : List Byte} {k : Nat} (h : s.params.bitOrder = .le)
    (hbuf : s.br.buf = some bytes) (hsize : s.br.index + k < s.br.sizeBits) (hlen : s.br.index + k < 8 * bytes.length) :
    s.bitAhead k = (leInteger bytes).testBit (s.br.index + k) := by
  have hbyte : bytes[(s.br.index + k) / 8]? = some (bytes[(s.br.index + k) / 8]'(by omega)) :=
    List.getElem?_eq_getElem _
  rw [State.bitAhead, State.bsBit_of_lt hsize hbuf, h, testBit_leInteger, streamBit_of_byte hbyte]
  rfl

end Sys2Proof.Machine

namespace Sys2Proof.Proofs.MemoryFamily

open Sys2Proof.Machine Sys2Proof.Claims

/-- Settles O12, by the byte the bit stands in below `BR.size_bits`, and by the draw from there on. -/
theorem bitOrderRule : Obligations.BitOrderRule := by
  refine fun s i => ⟨fun bytes v hi hbuf hbyte => ?_, fun hi => ⟨State.bsBit_of_le hi, ?_⟩⟩
  · have hbit := (State.bsBit_of_lt hi hbuf).trans (streamBit_of_byte hbyte s.params.bitOrder)
    exact ⟨fun hle => by rw [hbit, hle], fun hbe => by rw [hbit, hbe]⟩
  · rintro k rfl
    exact State.bitAhead_of_draw (State.bsBit_of_le hi)

/-- Settles O13: the sums by induction on the number of bits, the little-endian integer bit by bit. -/
theorem peekFormula : Obligations.PeekFormula := by
  refine fun s n => ⟨fun hle => ?_, fun hbe => ?_, fun bytes hle hbuf hsize hlen => ?_⟩
  · rw [State.peek_le hle, State.bitsAhead, bitsLE_eq_sum]
  · rw [State.peek_be hbe, State.bitsAhead, bitsBE_eq_sum]
  · refine Nat.eq_of_testBit_eq fun k => ?_
    rw [State.testBit_peek_le hle, Nat.testBit_mod_two_pow, Nat.testBit_div_two_pow]
    by_cases hk : k < n
    · rw [State.bitAhead_eq_testBit_leInteger hle hbuf (by omega) (by omega), Nat.add_comm k]
    · simp [hk]

end Sys2Proof.Proofs.MemoryFamily
end

section
/-! SUPPORT. The rotation of the buffer indices (45_frame_engine.md R360 to R363): the equations of `advance` by the
codec and its parameter, and what a sequence of rotations keeps. -/

namespace Sys2Proof.Machine

open Sys2Proof.Claims

variable {p : Params} {prev cur : BitVec 3} {r : Rotation} {n : Nat}

/-! ### The equations of the rotation -/

theorem exec_switchbuf (s : State) :
    exec .switchbuf s = .next { s with rot := advance s.params s.prevFrameType s.frameType s.rot, err := .none } := rfl

theorem advance_standard4 (hc : p.codec = .indeo4) (hr : p.rotate4 = .standard) (prev cur : BitVec 3) (r : Rotation) :
    advance p prev cur r = rotate4 prev cur r := by
  unfold advance
  rw [hc, hr]

theorem advance_standard5 (hc : p.codec = .indeo5) (hr : p.rotate5 = .standard) (prev cur : BitVec 3) (r : Rotation) :
    advance p prev cur r = rotate5Cur cur (rotate5Prev prev r) := by
  unfold advance
  rw [hc, hr]

theorem advance_other4 (hc : p.codec = .indeo4) (hr : p.rotate4 = .other n) (prev cur : BitVec 3) (r : Rotation) :
    advance p prev cur r = (Config.otherRotate4 n prev cur r).apart .indeo4 := by
  unfold advance
  rw [hc, hr]

theorem advance_other5 (hc : p.codec = .indeo5) (hr : p.rotate5 = .other n) (prev cur : BitVec 3) (r : Rotation) :
    advance p prev cur r = (Config.otherRotate5 n prev cur r).apart .indeo5 := by
  unfold advance
  rw [hc, hr]

theorem isRef4_iff {t : BitVec 3} : isRef4 t = true ↔ t = 0 ∨ t = 1 ∨ t = 2 := decide_eq_true_iff

/-- The first half of R361, after a frame that switches the buffers. -/
theorem rotate5Prev_switch (h : prev = 0 ∨ prev = 1) : rotate5Prev prev r =
    { r with bufSwitch := !r.bufSwitch, dstBuf := bitIndex (!r.bufSwitch), refBuf := bitIndex r.bufSwitch } :=
  if_pos h

/-- After a scalable inter frame. -/
theorem rotate5Prev_scal : rotate5Prev 2 r =
    { r with
      interScal := true, dstBuf := if r.interScal then r.ref2Buf else 2, ref2Buf := r.dstBuf, refBuf := r.dstBuf } :=
  rfl

/-- After any other frame. -/
theorem rotate5Prev_other (h : 3 ≤ prev.toNat) : rotate5Prev prev r = r := by
  unfold rotate5Prev
  rw [if_neg (by bv_omega), if_neg (by bv_omega)]

theorem rotate5Cur_zero : rotate5Cur 0 r =
    { r with bufSwitch := false, interScal := false, dstBuf := 0, refBuf := 1 } := rfl

theorem rotate5Cur_one : rotate5Cur 1 r =
    { r with interScal := false, dstBuf := bitIndex r.bufSwitch, refBuf := bitIndex (!r.bufSwitch) } := rfl

theorem rotate5Cur_other (h : 2 ≤ cur.toNat) : rotate5Cur cur r = r := by
  unfold rotate5Cur
  rw [if_neg (by bv_omega), if_neg (by bv_omega)]

theorem bitIndex_ne (b : Bool) : bitIndex b ≠ bitIndex !b := by cases b <;> decide

theorem bitIndex_ne_two (b : Bool) : bitIndex b ≠ 2 := by cases b <;> decide

/-! ### Sequences of rotations -/

/-- What every rotation keeps of the registers and the type of the frame they were set for holds after each of a
sequence. -/
theorem rotations_keep (P : BitVec 3 → Rotation → Prop)
    (hstep : ∀ prev cur r, P prev r → P cur (advance p prev cur r)) {types : List (BitVec 3)} {prev : BitVec 3}
    {r : Rotation} (h : P prev r) : ∀ q ∈ rotations p prev r types, ∃ t, P t q := by
  induction types generalizing prev r with
  | nil => exact fun q hq => absurd hq List.not_mem_nil
  | cons cur rest ih =>
    intro q hq
    have hnext := hstep prev cur r h
    rcases List.mem_cons.mp hq with rfl | hq
    · exact ⟨cur, hnext⟩
    · exact ih hnext q hq

/-- What the default rotation of INDEO5 keeps (R361): the destination is not the reference, nor the buffer that a scalable
inter frame would make the next destination; and after an intra or a plain inter frame `inter_scal` is off. -/
structure Rotation.Apart5 (prev : BitVec 3) (r : Rotation) : Prop where
  dst_ne_ref : r.dstBuf ≠ r.refBuf
  dst_ne_scal : r.dstBuf ≠ if r.interScal then r.ref2Buf else 2
  plain : prev = 0 ∨ prev = 1 → r.interScal = false

theorem Rotation.reset_apart5 : Rotation.Apart5 0 Rotation.reset := ⟨by decide, by decide, fun _ => rfl⟩

theorem Rotation.Apart5.rotate5Prev (h : r.Apart5 prev) :
    (rotate5Prev prev r).dstBuf ≠ (rotate5Prev prev r).refBuf ∧
    (rotate5Prev prev r).dstBuf ≠
      if (rotate5Prev prev r).interScal then (rotate5Prev prev r).ref2Buf else 2 := by
  have htypes : (prev = 0 ∨ prev = 1) ∨ prev = 2 ∨ 3 ≤ prev.toNat := by bv_omega
  rcases htypes with hswitch | rfl | hother
  · rw [rotate5Prev_switch hswitch]
    dsimp only
    rw [h.plain hswitch]
    exact ⟨(bitIndex_ne _).symm, bitIndex_ne_two _⟩
  · rw [rotate5Prev_scal]
    exact ⟨h.dst_ne_scal.symm, h.dst_ne_scal.symm⟩
  · rw [rotate5Prev_other hother]
    exact ⟨h.dst_ne_ref, h.dst_ne_scal⟩

theorem Rotation.Apart5.rotate5 (h : r.Apart5 prev) (cur : BitVec 3) :
    (rotate5Cur cur (Machine.rotate5Prev prev r)).Apart5 cur := by
  have htypes : cur = 0 ∨ cur = 1 ∨ 2 ≤ cur.toNat := by bv_omega
  rcases htypes with rfl | rfl | hother
  · exact ⟨show (0 : Fin 4) ≠ 1 by decide, show (0 : Fin 4) ≠ 2 by decide, fun _ => rfl⟩
  · exact ⟨bitIndex_ne _, bitIndex_ne_two _, fun _ => rfl⟩
  · rw [rotate5Cur_other hother]
    exact ⟨h.rotate5Prev.1, h.rotate5Prev.2, fun hplain => by bv_omega⟩

/-- Under INDEO5 the destination is not the reference, over every list of frame types from reset (R363). -/
theorem rotations_dst_ne_ref (hc : p.codec = .indeo5) (types : List (BitVec 3)) :
    ∀ r ∈ rotations p 0 Rotation.reset types, r.dstBuf ≠ r.refBuf := by
  intro r hr
  cases hrot : p.rotate5 with
  | standard =>
    obtain ⟨t, h⟩ := rotations_keep (fun prev r => r.Apart5 prev)
      (fun prev cur r h => by rw [advance_standard5 hc hrot]; exact h.rotate5 cur) Rotation.reset_apart5 r hr
    exact h.dst_ne_ref
  | other n =>
    obtain ⟨t, h⟩ := rotations_keep (fun _ r => r.dstBuf ≠ r.refBuf)
      (fun prev cur r _ => by rw [advance_other5 hc hrot]; exact Rotation.apart_dst_ne_ref _ _)
      Rotation.reset_distinct.1 r hr
    exact h

/-- Under INDEO4 the destination and the two references are three buffers (R363). -/
theorem rotations_distinct (hc : p.codec = .indeo4) (types : List (BitVec 3)) :
    ∀ r ∈ rotations p 0 Rotation.reset types, r.dstBuf ≠ r.refBuf ∧ r.dstBuf ≠ r.bRefBuf ∧ r.refBuf ≠ r.bRefBuf := by
  intro r hr
  obtain ⟨t, h⟩ := rotations_keep (fun _ r => r.dstBuf ≠ r.refBuf ∧ r.dstBuf ≠ r.bRefBuf ∧ r.refBuf ≠ r.bRefBuf)
    (fun prev cur r => advance_distinct p prev cur r hc) Rotation.reset_distinct r hr
  exact h

end Sys2Proof.Machine

namespace Sys2Proof.Proofs.MemoryFamily

open Sys2Proof.Machine Sys2Proof.Claims

/-- Settles O47: the worked sequences by running the default rotations, the invariants by one rotation at a time. -/
theorem rotationSequences : Obligations.RotationSequences := by
  refine fun p => ⟨fun hc => ⟨fun hr => ?_, rotations_dst_ne_ref hc⟩, fun hc => ⟨fun hr => ?_, rotations_distinct hc⟩⟩
  · simp only [rotations, advance_standard5 hc hr]
    decide
  · simp only [rotations, advance_standard4 hc hr]
    decide

/-- Settles O46: SWITCHBUF is one rotation, and the cases of R360 and R361 are those of the two frame types. -/
theorem rotationRule : Obligations.RotationRule := by
  intro s r gives isref bit
  have hgives {r' : Rotation} (h : advance s.params s.prevFrameType s.frameType s.rot = r') : gives r' := by
    rw [← h]
    exact exec_switchbuf s
  refine ⟨fun hc hr => ?_, fun hc hr r1 hr1 => ?_, fun n => ⟨fun hc hr => ?_, fun hc hr => ?_⟩⟩
  · have hadv := advance_standard4 hc hr s.prevFrameType s.frameType s.rot
    unfold rotate4 at hadv
    refine ⟨fun hprev hcur => hgives ?_, fun hprev hcur => hgives ?_, fun hprev => hgives ?_⟩
    · rw [hadv, if_pos (isRef4_iff.mpr hprev), if_pos (isRef4_iff.mpr hcur)]
    · rw [hadv, if_pos (isRef4_iff.mpr hprev), if_neg (mt isRef4_iff.mp hcur)]
    · rw [hadv, if_neg (mt isRef4_iff.mp hprev)]
  · have hprev : rotate5Prev s.prevFrameType s.rot = r1 := by
      rcases hr1 with ⟨hswitch, rfl⟩ | ⟨hscal, rfl⟩ | ⟨hother, rfl⟩
      · exact rotate5Prev_switch hswitch
      · rw [hscal]; exact rotate5Prev_scal
      · exact rotate5Prev_other hother
    have hadv := advance_standard5 hc hr s.prevFrameType s.frameType s.rot
    rw [hprev] at hadv
    refine ⟨fun hcur => hgives ?_, fun hcur => hgives ?_, fun hcur => hgives ?_⟩ <;> rw [hadv]
    · rw [hcur]; exact rotate5Cur_zero
    · rw [hcur]; exact rotate5Cur_one
    · exact rotate5Cur_other hcur
  · obtain ⟨hbref, hrefs⟩ := Rotation.apart_indeo4 (Config.otherRotate4 n s.prevFrameType s.frameType s.rot)
    exact ⟨_, hgives (advance_other4 hc hr _ _ _), Rotation.apart_dst_ne_ref _ _, hbref, hrefs, rfl,
      fun hdst hdstb hrefb => Rotation.apart_of_ne _ _ hdst fun _ => ⟨hdstb, hrefb⟩⟩
  · exact ⟨_, hgives (advance_other5 hc hr _ _ _), Rotation.apart_dst_ne_ref _ _, rfl,
      fun hdst => Rotation.apart_of_ne _ _ hdst fun h => nomatch h⟩

end Sys2Proof.Proofs.MemoryFamily
end

section
/-! SUPPORT. What an allocation leaves (45_frame_engine.md R312, R313; 20_memory.md R84): its bands, and which buffers
exist, every sample of them 0. -/

namespace Sys2Proof.Machine

variable {α : Type}

/-! ### The size test -/

theorem configFits_iff {cfg : PicConf} : configFits cfg = true ↔
    0 < cfg.picWidth.toNat ∧ 0 < cfg.picHeight.toNat ∧
      (cfg.picWidth.toNat + 128) * (cfg.picHeight.toNat + 128) < (2 ^ 31 - 1) / 8 ∧ 1 ≤ cfg.lumaBands.toNat ∧
      1 ≤ cfg.chromaBands.toNat :=
  decide_eq_true_iff

theorem exec_initplanes_ok {s : State} (h : configFits s.opr.cfg = true) :
    exec .initplanes s = .next (s.allocate s.opr.cfg).complete :=
  command_ok rfl rfl (by simp [initPlanes, h])

theorem exec_initplanes_fails {s : State} (h : configFits s.opr.cfg = false) :
    exec .initplanes s = .next (s.deallocate.raised .allocFail) :=
  command_raises rfl rfl (by simp [initPlanes, h])

/-! ### The bands -/

/-- A plane's width or height, from the picture's (R312). -/
def planeDim (p d : Nat) : Nat := if p = 0 then d else (d + 3) / 4

theorem quarter_toNat (v : BitVec 16) : (quarter v).toNat = (v.toNat + 3) / 4 := by
  have hv := v.isLt
  rw [quarter, BitVec.toNat_ofNat]
  exact Nat.mod_eq_of_lt (by omega)

theorem alignUp_planeAlign (x p : Nat) : alignUp x (planeAlign p) =
    (x + ((if p = 0 then 16 else 8) - 1)) / (if p = 0 then 16 else 8) * (if p = 0 then 16 else 8) := by
  unfold alignUp planeAlign
  split_ifs <;> rfl

/-- The bands of a plane of an allocation. -/
theorem State.allocate_bandOpt (s : State) (cfg : PicConf) {p : Nat} (hp : p < 3) (b : Nat) :
    (s.allocate cfg).band? p b =
      if b < cfg.numBands p then
        some (freshBand s.params s.hdr.isScalable p b
          (bandDim (planeDim p cfg.picWidth.toNat) (cfg.numBands p))
          (bandDim (planeDim p cfg.picHeight.toNat) (cfg.numBands p)))
      else none := by
  have hget (n : Nat) (f : Nat → Band) : ((List.range n).map f)[b]? = if b < n then some (f b) else none := by
    rw [List.getElem?_map]
    split_ifs with hb
    · rw [List.getElem?_range hb]; rfl
    · rw [List.getElem?_eq_none (by simpa using hb)]; rfl
  match p, hp with
  | 0, _ => exact hget _ _
  | 1, _ | 2, _ =>
    refine (hget _ _).trans ?_
    rw [quarter_toNat, quarter_toNat]
    rfl

/-! ### The buffers -/

theorem cellsLookup_isSome {l : List (Nat × α)} {x : Nat} : (cellsLookup l x).isSome = true ↔ ∃ v, (x, v) ∈ l := by
  induction l with
  | nil => simp [cellsLookup]
  | cons c l ih =>
    obtain ⟨a, w⟩ := c
    rw [cellsLookup]
    split_ifs with h
    · exact ⟨fun _ => ⟨w, by simp [h]⟩, fun _ => rfl⟩
    · simp [ih, Ne.symm h]

theorem mem_freshArena {codec : Codec} {cfg : PicConf} {x : Nat} {buf : Buf} :
    (x, buf) ∈ freshArena codec cfg ↔
      ∃ p b k, p < 3 ∧ b < cfg.numBands p ∧ k < 4 ∧ bufferExists codec cfg k = true ∧ bufKey p b k = x ∧ [] = buf := by
  simp only [freshArena, List.mem_flatMap, List.mem_map, List.mem_filter, List.mem_range, Prod.mk.injEq]
  constructor
  · rintro ⟨p, hp, b, hb, k, ⟨hk, he⟩, hx, hbuf⟩
    exact ⟨p, b, k, hp, hb, hk, he, hx, hbuf⟩
  · rintro ⟨p, b, k, hp, hb, hk, he, hx, hbuf⟩
    exact ⟨p, hp, b, hb, k, ⟨hk, he⟩, hx, hbuf⟩

theorem PicConf.numBands_lt (cfg : PicConf) (p : Nat) : cfg.numBands p < 8 := by
  unfold PicConf.numBands
  split_ifs
  · exact cfg.lumaBands.isLt
  · exact cfg.chromaBands.isLt

theorem bufferExists_iff {codec : Codec} {cfg : PicConf} {k : Nat} : bufferExists codec cfg k = true ↔
    k = 0 ∨ k = 1 ∨ k = 2 ∧ 1 < cfg.lumaBands.toNat ∨ k = 3 ∧ codec = .indeo4 := by
  simp [bufferExists, or_assoc]

/-- An allocation makes, for each band, the buffers R84 names. -/
theorem State.allocate_hasBuffer (s : State) (cfg : PicConf) {p : Nat} (hp : p < 3) (b k : Nat) :
    (s.allocate cfg).hasBuffer p b k = true ↔ b < cfg.numBands p ∧ bufferExists s.params.codec cfg k = true := by
  show (if b < 8 ∧ k < 4 then cellsLookup (freshArena s.params.codec cfg) (bufKey p b k) else none).isSome = true ↔ _
  constructor
  · split_ifs with hbk
    · intro h
      obtain ⟨buf, hmem⟩ := cellsLookup_isSome.mp h
      obtain ⟨p', b', k', -, hb', hk', he, hkey, -⟩ := mem_freshArena.mp hmem
      obtain ⟨rfl, rfl, rfl⟩ := (bufKey_inj (hb'.trans (cfg.numBands_lt p')) hk' hbk.1 hbk.2).mp hkey
      exact ⟨hb', he⟩
    · exact fun h => nomatch h
  · rintro ⟨hb, he⟩
    have hk : k < 4 := by have := bufferExists_iff.mp he; omega
    rw [if_pos ⟨hb.trans (cfg.numBands_lt p), hk⟩]
    exact cellsLookup_isSome.mpr ⟨[], mem_freshArena.mpr ⟨p, b, k, hp, hb, hk, he, rfl, rfl⟩⟩

/-- Every sample after an allocation is 0. -/
theorem State.allocate_sample (s : State) (cfg : PicConf) (p b k off : Nat) : (s.allocate cfg).sample p b k off = 0 := by
  have hempty : (s.allocate cfg).bufferOf p b k = [] := by
    show (if b < 8 ∧ k < 4 then cellsLookup (freshArena s.params.codec cfg) (bufKey p b k) else none).getD [] = []
    split_ifs
    · cases hl : cellsLookup (freshArena s.params.codec cfg) (bufKey p b k) with
      | none => rfl
      | some buf => exact (freshArena_wf _ _).2 _ (cellsLookup_mem hl)
    · rfl
  rw [State.sample, hempty]
  rfl

end Sys2Proof.Machine

namespace Sys2Proof.Proofs.MemoryFamily

open Sys2Proof.Machine Sys2Proof.Claims

/-- Settles O39, by the size test: an allocation makes the bands and buffers of the configuration, a failed one none. -/
theorem planesAllocated : Obligations.PlanesAllocated := by
  intro s cfg w h fits bands dim a
  have hfits : configFits cfg = true ↔ fits := configFits_iff
  refine ⟨fun hf => ⟨_, exec_initplanes_ok (hfits.mpr hf), fun p hp b => ⟨fun hb => ?_, fun hb => ?_, fun k => ?_⟩,
      s.allocate_sample cfg, rfl⟩,
    fun hf => ⟨_, exec_initplanes_fails (Bool.eq_false_iff.mpr (mt hfits.mp hf)), s.deallocate_bandOpt, fun p b k => ?_,
      rfl⟩⟩
  · exact ⟨_, (s.allocate_bandOpt cfg hp b).trans (if_pos hb), rfl, rfl, rfl, rfl, alignUp_planeAlign _ p,
      alignUp_planeAlign _ p, rfl, rfl, rfl, rfl, rfl⟩
  · exact (s.allocate_bandOpt cfg hp b).trans (if_neg (Nat.not_lt.mpr hb))
  · exact (s.allocate_hasBuffer cfg hp b k).trans (and_congr_right' bufferExists_iff)
  · exact congrArg Option.isSome (s.deallocate_bufferOpt p b k)

end Sys2Proof.Proofs.MemoryFamily
end

section
/-! SUPPORT. The decoder and the encoder, format by format (30_encoding.md R100 to R109): the fields of an encoding
decode to the command, and fields that decode are the encoding of their command. -/

namespace Sys2Proof

open Sys2Proof.Laws.EncodeFits

variable {rest opc : Nat} {i : Instr}

/-! ### From the operand bits of a command to the command -/

theorem decodeBR_toNat (n : BitVec 7) (mk : BitVec 7 → Instr) : decodeBR n.toNat mk = .ok (mk n) := by
  rw [decodeBR, if_pos n.isLt, BitVec.ofNat_toNat, BitVec.setWidth_eq]

theorem decodeVL_fields (t : BitVec 6) (d : BitVec 2) (b : BitVec 5) (mk : BitVec 6 → BitVec 2 → BitVec 5 → Instr) :
    decodeVL (t.toNat * 2 ^ 20 + d.toNat * 2 ^ 16 + b.toNat) mk = .ok (mk t d b) := by
  have ht : BitVec.ofNat 6 ((t.toNat * 2 ^ 20 + d.toNat * 2 ^ 16 + b.toNat) / 2 ^ 20) = t := by bv_omega
  have hd : BitVec.ofNat 2 ((t.toNat * 2 ^ 20 + d.toNat * 2 ^ 16 + b.toNat) / 2 ^ 16) = d := by bv_omega
  have hb : BitVec.ofNat 5 (t.toNat * 2 ^ 20 + d.toNat * 2 ^ 16 + b.toNat) = b := by bv_omega
  rw [decodeVL, if_pos (by omega), ht, hd, hb]

theorem decodeHB_field (t : BitVec 6) (mk : BitVec 6 → Instr) : decodeHB (t.toNat * 2 ^ 20) mk = .ok (mk t) := by
  have ht : BitVec.ofNat 6 (t.toNat * 2 ^ 20 / 2 ^ 20) = t := by bv_omega
  rw [decodeHB, if_pos (by omega), ht]

theorem decodeHD_fields (t : BitVec 6) (w c : BitVec 1) (mk : BitVec 6 → BitVec 1 → BitVec 1 → Instr) :
    decodeHD (t.toNat * 2 ^ 20 + w.toNat * 2 + c.toNat) mk = .ok (mk t w c) := by
  have ht : BitVec.ofNat 6 ((t.toNat * 2 ^ 20 + w.toNat * 2 + c.toNat) / 2 ^ 20) = t := by bv_omega
  have hw : BitVec.ofNat 1 ((t.toNat * 2 ^ 20 + w.toNat * 2 + c.toNat) / 2) = w := by bv_omega
  have hc : BitVec.ofNat 1 (t.toNat * 2 ^ 20 + w.toNat * 2 + c.toNat) = c := by bv_omega
  rw [decodeHD, if_pos (by omega), ht, hw, hc]

theorem decodePB_encodePB (p b : BitVec 2) (mk : BitVec 2 → BitVec 2 → Instr) :
    decodePB (encodePB p b) mk = .ok (mk p b) := by
  have hp : BitVec.ofNat 2 ((p.toNat * 2 ^ 24 + b.toNat * 2 ^ 22) / 2 ^ 24) = p := by bv_omega
  have hb : BitVec.ofNat 2 ((p.toNat * 2 ^ 24 + b.toNat * 2 ^ 22) / 2 ^ 22) = b := by bv_omega
  rw [decodePB, encodePB, if_pos (by omega), hp, hb]

/-- The command of the three bits `A`, `D`, `S` (R103, R109). -/
def mcCommand (t2 t : BitVec 2) (asd : Nat) : Instr :=
  match asd with
  | 0 => .mc8nd t
  | 1 => .mc4nd t
  | 2 => .mc8d t
  | 3 => .mc4d t
  | 4 => .mcavg8nd t t2
  | 5 => .mcavg4nd t t2
  | 6 => .mcavg8d t t2
  | _ => .mcavg4d t t2

theorem decodeMC_eq : decodeMC rest =
    if 128 ≤ rest then .error .reservedBits
    else if rest / 4 % 2 = 0 ∧ rest / 32 ≠ 0 then .error .reservedForm
    else .ok (mcCommand (BitVec.ofNat 2 (rest / 32)) (BitVec.ofNat 2 (rest / 8)) (rest % 8)) := by
  have hasd : rest % 8 < 8 := Nat.mod_lt _ (by decide)
  unfold decodeMC
  split_ifs
  · rfl
  · rfl
  · generalize rest % 8 = asd at hasd ⊢
    interval_cases asd <;> rfl

/-- An MC command of one reference, whose `A` is 0, has `T2` 0 (R108). -/
theorem decodeMC_encodeMC (t2 t : BitVec 2) {asd : Nat} (hasd : asd < 8) (hsingle : asd < 4 → t2 = 0) :
    decodeMC (encodeMC t2 t asd) = .ok (mcCommand t2 t asd) := by
  have ht := t.isLt
  have ht2 := t2.isLt
  have hzero : asd < 4 → t2.toNat = 0 := fun h => congrArg BitVec.toNat (hsingle h)
  have hT2 : BitVec.ofNat 2 ((t2.toNat * 32 + t.toNat * 8 + asd) / 32) = t2 := by bv_omega
  have hT : BitVec.ofNat 2 ((t2.toNat * 32 + t.toNat * 8 + asd) / 8) = t := by bv_omega
  have hA : (t2.toNat * 32 + t.toNat * 8 + asd) % 8 = asd := by omega
  rw [decodeMC_eq, encodeMC, if_neg (by omega), if_neg (by omega), hT2, hT, hA]

/-! ### Whole commands -/

theorem encodeFields_opcode_lt (i : Instr) : (encodeFields i).1 < 2 ^ 6 := by
  cases i <;> simp [encodeFields]

theorem encodeFields_operand_lt (i : Instr) : (encodeFields i).2 < 2 ^ 26 := by
  cases i with
  | getbits n | getbitslong n | getbits64 n | getsbits n | getsbitslong n | showbits n | showbitslong n | skipbits n
  | skipbitslong n => exact n.isLt.trans (by decide)
  | getvlc2 t d b => exact (getvlc2 t d b).2
  | huffbuild t | initvlc t => exact (huffbuild t).2
  | dechuffdesc t w c => exact (dechuffdesc t w c).2
  | mc8nd t | mc8d t | mc4nd t | mc4d t => exact mc_fits 0 t _ (by decide)
  | mcavg8nd t t2 | mcavg8d t t2 | mcavg4nd t t2 | mcavg4d t t2 => exact mc_fits t2 t _ (by decide)
  | decblk p b | dcblk p b | dectileblks p b | emptytile p b | decmbinfo p b | decband p b | outplane p b
  | bandhdr p b => exact pb_fits p b
  | _ => decide

theorem decodeFields_encodeFields (i : Instr) : decodeFields (encodeFields i).1 (encodeFields i).2 = .ok i := by
  cases i <;> simp only [encodeFields, decodeFields]
  case getbits n | getbitslong n | getbits64 n | getsbits n | getsbitslong n | showbits n | showbitslong n | skipbits n
    | skipbitslong n => exact decodeBR_toNat n _
  case getvlc2 t d b => exact decodeVL_fields t d b _
  case huffbuild t | initvlc t => exact decodeHB_field t _
  case dechuffdesc t w c => exact decodeHD_fields t w c _
  case mc8nd t | mc8d t | mc4nd t | mc4d t => exact decodeMC_encodeMC 0 t (by decide) fun _ => rfl
  case mcavg8nd t t2 | mcavg8d t t2 | mcavg4nd t t2 | mcavg4d t t2 =>
    exact decodeMC_encodeMC t2 t (by decide) fun h => absurd h (by decide)
  case decblk p b | dcblk p b | dectileblks p b | emptytile p b | decmbinfo p b | decband p b | outplane p b
    | bandhdr p b => exact decodePB_encodePB p b _
  all_goals rfl

theorem decode_encode (i : Instr) : decode (encode i) = .ok i := by
  have hopc := encodeFields_opcode_lt i
  have hrest := encodeFields_operand_lt i
  have hword : (encode i).toNat = (encodeFields i).1 * 2 ^ 26 + (encodeFields i).2 := by
    rw [encode, BitVec.toNat_ofNat, Nat.mod_eq_of_lt (by omega)]
  have hdiv : (encode i).toNat / 2 ^ 26 = (encodeFields i).1 := by omega
  have hmod : (encode i).toNat % 2 ^ 26 = (encodeFields i).2 := by omega
  rw [decode, hdiv, hmod, decodeFields_encodeFields]

theorem decode_of_encode_eq {cw : CommandWord} (h : encode i = cw) : decode cw = .ok i := h ▸ decode_encode i

/-! ### From the command back to its operand bits -/

theorem encodeFields_of_decodeN {j : Instr} (hj : encodeFields j = (opc, 0)) (h : decodeN rest j = .ok i) :
    encodeFields i = (opc, rest) := by
  unfold decodeN at h
  split_ifs at h with hrest
  cases h
  rw [hj, hrest]

theorem encodeFields_of_decodeBR {mk : BitVec 7 → Instr} (hmk : ∀ n, encodeFields (mk n) = (opc, n.toNat))
    (h : decodeBR rest mk = .ok i) : encodeFields i = (opc, rest) := by
  unfold decodeBR at h
  split_ifs at h with hrest
  cases h
  rw [hmk, BitVec.toNat_ofNat, Nat.mod_eq_of_lt hrest]

theorem encodeFields_of_decodeVL {mk : BitVec 6 → BitVec 2 → BitVec 5 → Instr} (hlt : rest < 2 ^ 26)
    (hmk : ∀ t d b, encodeFields (mk t d b) = (opc, t.toNat * 2 ^ 20 + d.toNat * 2 ^ 16 + b.toNat))
    (h : decodeVL rest mk = .ok i) : encodeFields i = (opc, rest) := by
  unfold decodeVL at h
  split_ifs at h with hrest
  cases h
  rw [hmk, BitVec.toNat_ofNat, BitVec.toNat_ofNat, BitVec.toNat_ofNat, Prod.mk.injEq]
  exact ⟨rfl, by omega⟩

theorem encodeFields_of_decodeHB {mk : BitVec 6 → Instr} (hlt : rest < 2 ^ 26)
    (hmk : ∀ t, encodeFields (mk t) = (opc, t.toNat * 2 ^ 20)) (h : decodeHB rest mk = .ok i) :
    encodeFields i = (opc, rest) := by
  unfold decodeHB at h
  split_ifs at h with hrest
  cases h
  rw [hmk, BitVec.toNat_ofNat, Prod.mk.injEq]
  exact ⟨rfl, by omega⟩

theorem encodeFields_of_decodeHD {mk : BitVec 6 → BitVec 1 → BitVec 1 → Instr} (hlt : rest < 2 ^ 26)
    (hmk : ∀ t w c, encodeFields (mk t w c) = (opc, t.toNat * 2 ^ 20 + w.toNat * 2 + c.toNat))
    (h : decodeHD rest mk = .ok i) : encodeFields i = (opc, rest) := by
  unfold decodeHD at h
  split_ifs at h with hrest
  cases h
  rw [hmk, BitVec.toNat_ofNat, BitVec.toNat_ofNat, BitVec.toNat_ofNat, Prod.mk.injEq]
  exact ⟨rfl, by omega⟩

theorem encodeFields_of_decodePB {mk : BitVec 2 → BitVec 2 → Instr} (hlt : rest < 2 ^ 26)
    (hmk : ∀ p b, encodeFields (mk p b) = (opc, encodePB p b)) (h : decodePB rest mk = .ok i) :
    encodeFields i = (opc, rest) := by
  unfold decodePB at h
  split_ifs at h with hrest
  cases h
  rw [hmk, encodePB, BitVec.toNat_ofNat, BitVec.toNat_ofNat, Prod.mk.injEq]
  exact ⟨rfl, by omega⟩

theorem encodeFields_mcCommand (t2 t : BitVec 2) {asd : Nat} (hasd : asd < 8) (hsingle : asd < 4 → t2 = 0) :
    encodeFields (mcCommand t2 t asd) = (0x20, encodeMC t2 t asd) := by
  rcases Nat.lt_or_ge asd 4 with hone | hboth
  · rw [hsingle hone]
    interval_cases asd <;> rfl
  · interval_cases asd <;> rfl

theorem encodeFields_of_decodeMC (h : decodeMC rest = .ok i) : encodeFields i = (0x20, rest) := by
  rw [decodeMC_eq] at h
  split_ifs at h with hlt hsingle
  cases h
  have hzero : rest % 8 < 4 → BitVec.ofNat 2 (rest / 32) = 0 := fun hasd => by bv_omega
  rw [encodeFields_mcCommand _ _ (Nat.mod_lt _ (by decide)) hzero, encodeMC, BitVec.toNat_ofNat, BitVec.toNat_ofNat,
    Prod.mk.injEq]
  exact ⟨rfl, by omega⟩

theorem encodeFields_of_decodeInvTx (h : decodeInvTx rest = .ok i) : encodeFields i = (0x18, rest) := by
  unfold decodeInvTx at h
  split_ifs at h
  split at h <;> cases h <;> rfl

theorem encodeFields_of_decodeDcTx (h : decodeDcTx rest = .ok i) : encodeFields i = (0x19, rest) := by
  unfold decodeDcTx at h
  split_ifs at h
  split at h <;> cases h <;> rfl

theorem encodeFields_of_decodeFields (hlt : rest < 2 ^ 26) (h : decodeFields opc rest = .ok i) :
    encodeFields i = (opc, rest) := by
  unfold decodeFields at h
  split at h
  case h_1 | h_2 | h_3 | h_4 | h_5 | h_6 | h_7 | h_8 | h_9 => exact encodeFields_of_decodeBR (fun _ => rfl) h
  case h_11 => exact encodeFields_of_decodeVL hlt (fun _ _ _ => rfl) h
  case h_14 | h_15 => exact encodeFields_of_decodeHB hlt (fun _ => rfl) h
  case h_16 => exact encodeFields_of_decodeHD hlt (fun _ _ _ => rfl) h
  case h_17 => exact encodeFields_of_decodeInvTx h
  case h_18 => exact encodeFields_of_decodeDcTx h
  case h_19 => exact encodeFields_of_decodeMC h
  case h_21 | h_22 | h_23 | h_24 | h_25 | h_26 | h_35 | h_36 =>
    exact encodeFields_of_decodePB hlt (fun _ _ => rfl) h
  case h_39 => cases h
  all_goals exact encodeFields_of_decodeN rfl h

theorem encode_of_decode {cw : CommandWord} (h : decode cw = .ok i) : encode i = cw := by
  have hfields := encodeFields_of_decodeFields (Nat.mod_lt _ (by decide)) h
  rw [encode, hfields, Nat.div_add_mod', BitVec.ofNat_toNat, BitVec.setWidth_eq]

end Sys2Proof

namespace Sys2Proof.Machine

/-- Every command checks its fields first (30_encoding.md R104). -/
theorem exec_eq_command (i : Instr) (s : State) : ∃ check body, exec i s = command i check body s := by
  cases i <;> exact ⟨_, _, rfl⟩

theorem exec_illegal {i : Instr} (hi : i.wellFormed = false) (s : State) :
    exec i s = .next { s with err := .illegalCommand } := by
  obtain ⟨check, body, hexec⟩ := exec_eq_command i s
  exact hexec.trans (command_illegal hi)

theorem runWord_error {cw : CommandWord} {e : DecodeError} (h : decode cw = .error e) (s : State) :
    runWord cw s = .next { s with err := .illegalCommand } := by
  unfold runWord
  rw [h]
  rfl

end Sys2Proof.Machine

namespace Sys2Proof.Proofs.EncodingFamily

open Sys2Proof.Machine

/-- Settles O1: the opcode and the operand bits do not overlap in the word, and each format reads back its fields. -/
theorem decodeEncode : Obligations.DecodeEncode := decode_encode

/-- Settles O2, format by format: the bits a format does not name are 0, and its fields make up the rest of the word. -/
theorem encodeDecode : Obligations.EncodeDecode := fun _ _ => encode_of_decode

/-- Settles O3: the three words are the encodings of their commands, and decode because every encoding does. -/
theorem workedEncodings : Obligations.WorkedEncodings := by
  have hvlc : encode (.getvlc2 8 1 13) = 0x2C81000D := by decide
  have hmc : encode (.mc8d 3) = 0x8000001A := by decide
  have hslant : encode .slant4 = 0x6000000B := by decide
  exact ⟨⟨decode_of_encode_eq hvlc, hvlc, by decide⟩, ⟨decode_of_encode_eq hmc, hmc, by decide⟩,
    decode_of_encode_eq hslant, hslant, by decide⟩

/-- Settles O5: every command checks its fields before anything else, and an undecodable word runs no command. -/
theorem illegalOnlyErr : Obligations.IllegalOnlyErr := by
  refine ⟨fun i s hi => exec_illegal hi s, fun s c rest e hport hdecode => ?_⟩
  unfold step
  rw [State.nextCommand_cons hport]
  exact runWord_error hdecode _

end Sys2Proof.Proofs.EncodingFamily
end

section
/-! SUPPORT. Reading the stream where no bit is a draw (20_memory.md R81, R82; 40_bitreader.md R140, R149). -/

namespace Sys2Proof.Machine

open Sys2Proof.Claims

variable {s : State} {k n m : Nat}

theorem State.drawsAhead_of_streamHas (h : streamHas s n) : s.drawsAhead n = 0 :=
  if_pos (List.all_eq_true.mpr fun k hk => h k (List.mem_range.mp hk))

theorem State.looked_of_streamHas (h : streamHas s n) : s.looked n = s := by
  unfold State.looked
  rw [State.drawsAhead_of_streamHas h, Nat.add_zero]

theorem State.lt_sizeBits_of_bsBit {i : Nat} (h : (s.bsBit i).isSome = true) : i < s.br.sizeBits := by
  by_contra hi
  rw [State.bsBit_of_le (Nat.not_lt.mp hi)] at h
  cases h

theorem State.avail_of_streamHas (hn : 0 < n) (h : streamHas s n) : s.avail n = true := by
  have hlast := State.lt_sizeBits_of_bsBit (h (n - 1) (by omega))
  exact State.avail_iff.mpr (by omega)

theorem readBits_of_streamHas (hb : s.bound = true) (hn : 0 < n) (h : streamHas s n) :
    readBits n s = .ok (s.peek n) (s.moved n) := by
  rw [readBits_ok hb (State.avail_of_streamHas hn h), State.looked_of_streamHas h]

theorem streamHas_moved (h : streamHas s m) (hk : k + n ≤ m) : streamHas (s.moved k) n := fun j hj => by
  have hbit := h (k + j) (by omega)
  rw [← Nat.add_assoc] at hbit
  exact hbit

/-! ### The size of a field -/

theorem bitsLE_lt (bs : List Bool) : bitsLE bs < 2 ^ bs.length := by
  induction bs with
  | nil => decide
  | cons b bs ih =>
    have := b.toNat_le
    rw [bitsLE, List.length_cons, Nat.pow_succ]
    omega

theorem bitsBE_lt (bs : List Bool) : bitsBE bs < 2 ^ bs.length := by
  induction bs with
  | nil => decide
  | cons b bs ih =>
    have := Nat.mul_le_mul_right (2 ^ bs.length) b.toNat_le
    rw [bitsBE, List.length_cons, Nat.pow_succ]
    omega

theorem State.peek_lt (s : State) (n : Nat) : s.peek n < 2 ^ n := by
  have hlen : (s.bitsAhead n).length = n := by simp [State.bitsAhead]
  unfold State.peek bitsValue
  cases s.params.bitOrder
  · exact (bitsLE_lt _).trans_eq (by rw [hlen])
  · exact (bitsBE_lt _).trans_eq (by rw [hlen])

theorem field_lt (s : State) (k n : Nat) : field s k n < 2 ^ n := (s.moved k).peek_lt n

theorem toNat_field (s : State) (k n : Nat) : (BitVec.ofNat n (field s k n)).toNat = field s k n := by
  rw [BitVec.toNat_ofNat, Nat.mod_eq_of_lt (field_lt s k n)]

/-! ### ALIGN -/

theorem State.index_add_alignGap (s : State) : s.br.index + s.alignGap = aligned s.br.index := by
  unfold State.alignGap aligned
  omega

theorem add_aligned_sub (i n : Nat) : i + (aligned (i + n) - i) = aligned (i + n) := by
  unfold aligned
  omega

theorem alignBits_ok (hb : s.bound = true) (h : within s (aligned s.br.index)) :
    alignBits s = .ok () { s with br := atBit s (aligned s.br.index) } := by
  have hmove := skipBits_ok hb (State.avail_iff.mpr (s.index_add_alignGap.trans_le h))
  rw [State.moved, s.index_add_alignGap] at hmove
  exact hmove

end Sys2Proof.Machine
end

section
/-! SUPPORT. The descriptor of one band under writes, and the states in which a band header is read: only that
descriptor, the header flags and the cursor differ from the state the command starts from. -/

namespace Sys2Proof.Machine

open Sys2Proof.Claims

variable {s : State} {p b k n m : Nat} {bd bd' : Band} {h : Header}

/-! ### Writes of one band -/

theorem State.updBand_updBand (s : State) (p b : Nat) (f g : Band → Band) :
    (s.updBand p b f).updBand p b g = s.updBand p b (g ∘ f) := by
  simp only [State.updBand, State.updPlane, modifyPlane, Vector.mapIdx_mapIdx]
  congr 2
  funext i pl
  by_cases hi : i = p <;> simp [hi, List.modify_modify_eq]

theorem State.updBand_bandOpt (s : State) (p b : Nat) (f : Band → Band) :
    (s.updBand p b f).band? p b = (s.band? p b).map f := by
  simp only [State.band?, State.plane?, State.updBand, State.updPlane, modifyPlane, Vector.getElem?_mapIdx]
  cases s.planes[p]? with
  | none => rfl
  | some pl => simp

theorem modify_const_of_getElem? {α : Type} {l : List α} {i : Nat} {a : α} (h : l[i]? = some a) :
    l.modify i (fun _ => a) = l := by
  refine List.ext_getElem? fun j => ?_
  rw [List.getElem?_modify]
  by_cases hj : i = j
  · subst hj
    simp [h]
  · simp [hj]

/-- Writing to a band what it holds changes nothing. -/
theorem State.updBand_self (hbd : s.band? p b = some bd) : (s.updBand p b fun _ => bd) = s := by
  have hplanes : modifyPlane s.planes p (fun pl => { pl with bands := pl.bands.modify b fun _ => bd }) = s.planes := by
    refine Vector.mapIdx_eq_iff.mpr fun i hi => ?_
    by_cases hip : i = p
    · subst hip
      have hget : s.planes[i].bands[b]? = some bd := by
        simpa [State.band?, State.plane?, Vector.getElem?_eq_getElem hi] using hbd
      simp [modify_const_of_getElem? hget]
    · simp [hip]
  unfold State.updBand State.updPlane
  rw [hplanes]

/-! ### Reading a band header -/

/-- The engine `s` while the header of band `(p, b)` is read: the band's descriptor, the header flags, and the cursor
`k` bits on. -/
def State.onBand (s : State) (p b : Nat) (bd : Band) (h : Header) (k : Nat) : State :=
  { s with planes := (s.updBand p b fun _ => bd).planes, hdr := h, br := atBit s (s.br.index + k) }

@[simp] theorem State.onBand_params : (s.onBand p b bd h k).params = s.params := rfl
@[simp] theorem State.onBand_hdr : (s.onBand p b bd h k).hdr = h := rfl

theorem State.onBand_self (hbd : s.band? p b = some bd) : s.onBand p b bd s.hdr 0 = s := by
  unfold State.onBand
  rw [State.updBand_self hbd]
  rfl

theorem getBand_onBand (hbd : s.band? p b = some bd') :
    getBand p b (s.onBand p b bd h k) = .ok bd (s.onBand p b bd h k) := by
  have hget : (s.onBand p b bd h k).band? p b = some bd :=
    (State.updBand_bandOpt s p b fun _ => bd).trans (by rw [hbd]; rfl)
  unfold getBand
  rw [hget]
  rfl

@[simp] theorem updBand_onBand (f : Band → Band) :
    updBand p b f (s.onBand p b bd h k) = .ok () (s.onBand p b (f bd) h k) := by
  have hupd : (s.onBand p b bd h k).updBand p b f = s.onBand p b (f bd) h k := by
    show { (s.updBand p b fun _ => bd).updBand p b f with hdr := h, br := atBit s (s.br.index + k) } = _
    rw [State.updBand_updBand]
    rfl
  rw [updBand, update_apply, hupd]

@[simp] theorem updHdr_onBand (f : Header → Header) :
    updHdr f (s.onBand p b bd h k) = .ok () (s.onBand p b bd (f h) k) := rfl

theorem readBits_onBand (hb : s.bound = true) (hs : streamHas s m) (hn : 0 < n) (hk : k + n ≤ m) :
    readBits n (s.onBand p b bd h k) = .ok (field s k n) (s.onBand p b bd h (k + n)) := by
  unfold State.onBand
  rw [← Nat.add_assoc]
  exact readBits_of_streamHas hb hn (streamHas_moved hs hk)

theorem readFlag_onBand (hb : s.bound = true) (hs : streamHas s m) (hk : k + 1 ≤ m) :
    readFlag (s.onBand p b bd h k) = .ok (decide (field s k 1 = 1)) (s.onBand p b bd h (k + 1)) :=
  M.bind_ok (readBits_onBand hb hs Nat.one_pos hk)

theorem readField_onBand (hb : s.bound = true) (hs : streamHas s m) (hn : 0 < n) (hk : k + n ≤ m) :
    readField n (s.onBand p b bd h k) = .ok (BitVec.ofNat n (field s k n)) (s.onBand p b bd h (k + n)) :=
  M.bind_ok (readBits_onBand hb hs hn hk)

theorem alignBits_onBand (hb : s.bound = true) (hin : within s (aligned (s.br.index + k))) :
    alignBits (s.onBand p b bd h k) = .ok () (s.onBand p b bd h (aligned (s.br.index + k) - s.br.index)) := by
  rw [alignBits_ok (s := s.onBand p b bd h k) hb hin]
  unfold State.onBand
  rw [add_aligned_sub]
  rfl

/-- The band's checksum flag that is not set. -/
theorem readBandChecksum_onBand (hb : s.bound = true) (hs : streamHas s m) (hk : k + 1 ≤ m) (hflag : field s k 1 = 0) :
    readBandChecksum p b (s.onBand p b bd h k) =
      .ok () (s.onBand p b { bd with checksumPresent := false } h (k + 1)) := by
  simp [readBandChecksum, M.bind_apply, readFlag_onBand hb hs hk, hflag]

/-- BANDHDR whose header is read to the end, `k` bits on, which is bit `i` of the stream. -/
theorem exec_bandhdr_ok {p b : BitVec 2} {i : Nat} (hp : p ≠ 3) (hb : s.bound = true)
    (hbd : s.band? p.toNat b.toNat = some bd') (hi : s.br.index + k = i)
    (hbody : bandHeader p.toNat b.toNat (s.onBand p.toNat b.toNat bd' s.hdr 0) =
      .ok () (s.onBand p.toNat b.toNat bd h k)) :
    exec (.bandhdr p b) s = .next { s with
      planes := (s.updBand p.toNat b.toNat fun _ => bd).planes, hdr := h, br := atBit s i, err := .none } := by
  have hwf : (Instr.bandhdr p b).wellFormed = true := decide_eq_true (by bv_omega)
  have hcheck : checkBandStream p.toNat b.toNat s = none :=
    orBadState_eq_none.mpr (by rw [State.hasBand, hbd, hb]; rfl)
  subst hi
  rw [State.onBand_self hbd] at hbody
  exact command_ok hwf hcheck hbody

theorem bandHeader_indeo4 (hcodec : s.params.codec = .indeo4) :
    bandHeader p b (s.onBand p b bd h k) = bandHeader4 p b (s.onBand p b bd h k) := by
  simp [bandHeader, M.bind_apply, hcodec]

theorem bandHeader_indeo5 (hcodec : s.params.codec = .indeo5) :
    bandHeader p b (s.onBand p b bd h k) = bandHeader5 p b (s.onBand p b bd h k) := by
  simp [bandHeader, M.bind_apply, hcodec]

end Sys2Proof.Machine
end

section
/-! SUPPORT. The band headers bit by bit: INDEO5 empty and of flag byte 0 (45_frame_engine.md R353), INDEO4 empty and
selecting (R340 to R343). -/

namespace Sys2Proof.Machine

open Sys2Proof.Claims

variable {s : State} {p b k m : Nat} {bd bd' : Band} {h : Header}

/-! ### INDEO5 (R353) -/

theorem bandHeader5_empty (hb : s.bound = true) (hs : streamHas s 8) (hflag : field s 0 8 % 2 = 1) :
    bandHeader5 p b (s.onBand p b bd h 0) = .ok () (s.onBand p b { bd with isEmpty := true } h 8) := by
  have hempty : (BitVec.ofNat 8 (field s 0 8)).getLsbD 0 = true := by
    simp [BitVec.getLsbD_ofNat, hflag]
  simp only [bandHeader5, M.bind_apply, readField_onBand hb hs (show 0 < 8 by decide) (show 0 + 8 ≤ 8 by decide),
    updBand_onBand, hempty, if_true, done_apply]

theorem bandHeader5_plain (hb : s.bound = true) (hs : streamHas s 14) (hreuse : s.params.huffNotCoded = .reuse)
    (hflags : field s 0 8 = 0) (hsize : h.frameFlags.getLsbD 7 = false) (hsum : field s 8 1 = 0)
    (hin : within s (aligned (s.br.index + 14))) :
    bandHeader5 p b (s.onBand p b bd h 0) = .ok () (s.onBand p b { bd with
      isEmpty := false, dataSize := 0, inheritMv := false, inheritQdelta := true, qdeltaPresent := false
      numCorr := 0, rvmapSel := 8, checksumPresent := false, globQuant := BitVec.ofNat 5 (field s 9 5) } h
      (aligned (s.br.index + 14) - s.br.index)) := by
  simp (disch := decide) [-BitVec.getLsbD_eq_getElem, bandHeader5, bandFields5, readBandRvmap, decodeHuffDesc,
    M.bind_apply, readField_onBand hb hs, readBandChecksum_onBand hb hs _ hsum, hflags, hsize, hreuse,
    alignBits_onBand hb hin]

/-! ### INDEO4: the quantiser tables (R341) -/

/-- `intra` and `inter` are the base tables of set `t` for blocks of size `blk`. -/
def IsBases4 (q : Quant4) (t : Fin 6) (blk : Nat) (intra inter : List (BitVec 16)) : Prop :=
  (blk = 8 → intra = (q.intra8[t]).toList ∧ inter = (q.inter8[t]).toList) ∧
  (blk = 4 → q.intra4[t.val]?.map Vector.toList = some intra ∧ q.inter4[t.val]?.map Vector.toList = some inter)

theorem tableOr_of_getElem? {n k t : Nat} {tables : Vector (Vector (BitVec 16) k) n} {free : Nat → BitVec 16}
    {table : Vector (BitVec 16) k} (h : tables[t]? = some table) : tableOr tables free t = table.toList := by
  unfold tableOr
  rw [h]

theorem bases4_isBases4 (q : Quant4) (t : Fin 6) {blk : Nat} (hfour : blk = 4 → t.val < 5) :
    IsBases4 q t blk (bases4 q t blk).1 (bases4 q t blk).2 := by
  refine ⟨fun h8 => ?_, fun h4 => ?_⟩
  · subst h8
    have hintra := Vector.getElem?_eq_getElem (xs := q.intra8) t.isLt
    have hinter := Vector.getElem?_eq_getElem (xs := q.inter8) t.isLt
    exact ⟨tableOr_of_getElem? hintra, tableOr_of_getElem? hinter⟩
  · have ht := hfour h4
    subst h4
    have hintra := Vector.getElem?_eq_getElem (xs := q.intra4) ht
    have hinter := Vector.getElem?_eq_getElem (xs := q.inter4) ht
    rw [hintra, hinter]
    exact ⟨congrArg some (tableOr_of_getElem? hintra).symm, congrArg some (tableOr_of_getElem? hinter).symm⟩

theorem quantTab4_eq {q : Quant4} {qm : BitVec 5} {t : Fin 6} (h : q.indexToTab[qm.toNat]? = some t) :
    quantTab4 q qm = t := by
  unfold quantTab4
  rw [h]
  rfl

/-- QSEL4 selects the tables of the set that the band's matrix names. -/
theorem selectQuant4_onBand {t : Fin 6} (ht : s.params.quant4.indexToTab[bd.quantMat.toNat]? = some t)
    (hfour : bd.blkSize = 4 → t.val < 5) :
    ∃ intra inter, IsBases4 s.params.quant4 t bd.blkSize intra inter ∧
      selectQuant4 p b (s.onBand p b bd h k) = .ok () (s.onBand p b { bd with
        intraBase := some intra, interBase := some inter, intraScale := none, interScale := none } h k) := by
  refine ⟨_, _, bases4_isBases4 _ t hfour, ?_⟩
  simp [selectQuant4, M.bind_apply, quantTab4_eq ht]

/-! ### INDEO4: the head and the end of a band header (R340) -/

/-- What follows the fields of a band: the quantiser tables, ALIGN, and the check that the band has a scan. -/
def bandEnd4 (p b : Nat) : M Unit :=
  selectQuant4 p b >>= fun _ => alignBits >>= fun _ => getBand p b >>= fun bd => raiseIf bd.scan.isNone .badHeader

theorem bandHeader4_onBand (hb : s.bound = true) (hs : streamHas s m) (hm : 7 ≤ m) (hplane : field s 0 2 = p)
    (hband : field s 2 4 = b) :
    bandHeader4 p b (s.onBand p b bd h 0) =
      ((if field s 6 1 = 1 then done else bandFields4 p b) >>= fun _ => bandEnd4 p b)
        (s.onBand p b { bd with isEmpty := decide (field s 6 1 = 1) } h 7) := by
  simp (disch := omega) [bandHeader4, bandEnd4, M.bind_apply, readBits_onBand hb hs, readFlag_onBand hb hs, hplane,
    hband]

theorem bandEnd4_onBand (hb : s.bound = true) (hbd : s.band? p b = some bd') {t : Fin 6}
    (ht : s.params.quant4.indexToTab[bd.quantMat.toNat]? = some t) (hfour : bd.blkSize = 4 → t.val < 5)
    (hscan : bd.scan ≠ none) (hin : within s (aligned (s.br.index + k))) :
    ∃ intra inter, IsBases4 s.params.quant4 t bd.blkSize intra inter ∧
      bandEnd4 p b (s.onBand p b bd h k) = .ok () (s.onBand p b { bd with
        intraBase := some intra, interBase := some inter, intraScale := none, interScale := none } h
        (aligned (s.br.index + k) - s.br.index)) := by
  obtain ⟨intra, inter, hbases, hquant⟩ := selectQuant4_onBand (p := p) (b := b) (h := h) (k := k) ht hfour
  have hsome : bd.scan.isNone = false := by simpa [Option.isSome_iff_ne_none] using hscan
  refine ⟨intra, inter, hbases, ?_⟩
  simp [bandEnd4, M.bind_apply, hquant, alignBits_onBand hb hin, getBand_onBand hbd, hsome]

/-! ### INDEO4: a selecting band header (R340, R342, R343) -/

/-- A transform id, its kernels and its size (30_encoding.md R126). -/
abbrev Transform4 := Nat × InvTx × DcTx × Nat

/-- The transforms by id, as the model selects them (R126). -/
theorem transforms4_spec : ∀ e ∈ transforms4, kernels4 e.1 = some (e.2.1, e.2.2.1) ∧ txSize4 e.1 = e.2.2.2 := by
  decide

theorem selectTransform4_onBand (hbd : s.band? p b = some bd') {e : Transform4} (he : e ∈ transforms4)
    (hsize : e.2.2.2 = bd.blkSize) {is2d : Bool} (h2d : s.params.is2d4[e.1]? = some is2d) :
    selectTransform4 p b e.1 (s.onBand p b bd h k) = .ok () (s.onBand p b { bd with
        invTransform := some e.2.1, dcTransform := some e.2.2.1, is2d := is2d, transformSize := bd.blkSize }
      { h with usesHaar := h.usesHaar || decide (e.1 = 0 ∨ e.1 = 1 ∨ e.1 = 2 ∨ e.1 = 10) } k) := by
  obtain ⟨hkernels, htx⟩ := transforms4_spec e he
  have hfits : (decide (e.1 < 10) && decide (bd.blkSize < 8)) = false := by
    rw [← hsize, ← htx, txSize4]
    split_ifs <;> simp [*]
  by_cases hhaar : e.1 = 0 ∨ e.1 = 1 ∨ e.1 = 2 ∨ e.1 = 10 <;>
    simp [selectTransform4, M.bind_apply, hkernels, getBand_onBand hbd, hfits, hhaar, h2d, htx, hsize]

/-- The selection in the next bits is of transform `e`, the scan `scan` and a matrix of set `t`, which go with blocks of
size `blk` (R340 to R343). -/
structure Selects4 (s : State) (e : Transform4) (is2d : Bool) (scan : List Nat) (t : Fin 6) (blk : Nat) : Prop where
  transform : e ∈ transforms4
  id : field s 21 5 = e.1
  size : e.2.2.2 = blk
  twoDim : s.params.is2d4[e.1]? = some is2d
  scan : s.params.scans4[field s 26 4]? = some scan
  scanSize : blk = if 5 ≤ field s 26 4 ∧ field s 26 4 ≤ 9 then 4 else 8
  notOwn : field s 30 5 ≠ 31
  set : s.params.quant4.indexToTab[field s 30 5]? = some t
  setSize : blk = 4 → t.val < 5

section Selecting

variable {e : Transform4} {is2d : Bool} {scan : List Nat} {t : Fin 6} {blk : Nat}

theorem Selects4.matrix (hsel : Selects4 s e is2d scan t blk) :
    s.params.quant4.indexToTab[(BitVec.ofNat 5 (field s 30 5)).toNat]? = some t := by
  rw [toNat_field, hsel.set]

theorem bandSelection4_onBand (hb : s.bound = true) (hbd : s.band? p b = some bd') (hs : streamHas s 38)
    (hsel : Selects4 s e is2d scan t blk) (hblk : bd.blkSize = blk) :
    bandSelection4 p b (s.onBand p b bd h 21) = .ok () (s.onBand p b { bd with
        invTransform := some e.2.1, dcTransform := some e.2.2.1, is2d := is2d, transformSize := blk
        scan := some scan, scanSize := blk, quantMat := BitVec.ofNat 5 (field s 30 5) }
      { h with usesHaar := h.usesHaar || decide (e.1 = 0 ∨ e.1 = 1 ∨ e.1 = 2 ∨ e.1 = 10) } 35) := by
  subst hblk
  obtain ⟨hsc, hscan⟩ := Vector.getElem?_eq_some_iff.mp hsel.scan
  obtain ⟨hlen, -⟩ := List.getElem?_eq_some_iff.mp hsel.set
  have hmod : field s 30 5 % 32 = field s 30 5 := Nat.mod_eq_of_lt (field_lt s 30 5)
  have hnot31 : BitVec.ofNat 5 (field s 30 5) ≠ 31#5 := by have := hsel.notOwn; bv_omega
  have hfits : (if 5 ≤ field s 26 4 ∧ field s 26 4 ≤ 9 then !decide (bd.blkSize = 4)
      else !decide (bd.blkSize = 8)) = false := by
    rw [hsel.scanSize]
    split_ifs <;> rfl
  simp [bandSelection4, M.bind_apply, readBits_onBand hb hs, readField_onBand hb hs, getBand_onBand hbd, hsel.id,
    selectTransform4_onBand hbd hsel.transform hsel.size hsel.twoDim, hsc, hsc.ne, hscan, hfits, hnot31, hmod,
    hlen.not_ge]

theorem checkSelection4_onBand (hbd : s.band? p b = some bd') (hfour : blk = 4 → t.val < 5)
    (ht : quantTab4 s.params.quant4 bd.quantMat = t) (hblk : bd.blkSize = blk) (hscan : bd.scanSize = blk)
    (htx : bd.transformSize = blk) : checkSelection4 p b (s.onBand p b bd h k) = .ok () (s.onBand p b bd h k) := by
  have hset : ¬(4 < t.val ∧ blk = 4) := fun ⟨hlt, h4⟩ => absurd (hfour h4) (by omega)
  have hfits : (decide (blk = 8) && decide (blk < 8)) = false := by simp +contextual
  simp [checkSelection4, M.bind_apply, getBand_onBand hbd, ht, hblk, hset, hscan, htx, hfits]

/-- The other bits of the header: the flags `halfpel`, `im` and `iq`, blocks of size `blk`, a selection, and none of the
optional fields (R340). -/
structure Plain4 (s : State) (halfpel im iq : Bool) (blk : Nat) : Prop where
  unsized : field s 7 1 = 0
  halfpel : field s 8 2 = halfpel.toNat
  noChecksum : field s 10 1 = 0
  sizes : field s 11 2 < 3
  blkSize : blk = if field s 11 2 = 2 then 4 else 8
  inheritMv : field s 13 1 = im.toNat
  inheritQdelta : field s 14 1 = iq.toNat
  selects : field s 20 1 = 0
  noTable : field s 35 1 = 0
  noMap : field s 36 1 = 0
  noCorrections : field s 37 1 = 0

/-- What such a header gives the band, but for the base tables. -/
def Band.selected4 (bd : Band) (s : State) (halfpel im iq : Bool) (e : Transform4) (is2d : Bool) (scan : List Nat)
    (blk : Nat) : Band :=
  { bd with
    isEmpty := false, isHalfpel := halfpel, checksumPresent := false
    mbSize := if field s 11 2 = 0 then 16 else if field s 11 2 = 1 then 8 else 4, blkSize := blk
    inheritMv := im, inheritQdelta := iq, globQuant := BitVec.ofNat 5 (field s 15 5)
    invTransform := some e.2.1, dcTransform := some e.2.2.1, is2d := is2d, transformSize := blk
    scan := some scan, scanSize := blk, quantMat := BitVec.ofNat 5 (field s 30 5)
    blkVlc := { bd.blkVlc with tab := .pic }, rvmapSel := 8, numCorr := 0 }

/-- What it gives the header flags. -/
def Header.selected4 (h : Header) (halfpel : Bool) (id : Nat) : Header :=
  { h with
    usesFullpel := h.usesFullpel || !halfpel
    usesHaar := h.usesHaar || decide (id = 0 ∨ id = 1 ∨ id = 2 ∨ id = 10) }

theorem bandFields4_onBand (hb : s.bound = true) (hbd : s.band? p b = some bd') (hs : streamHas s 38)
    {halfpel im iq : Bool} (hplain : Plain4 s halfpel im iq blk) (hsel : Selects4 s e is2d scan t blk) :
    bandFields4 p b (s.onBand p b { bd with isEmpty := false } h 7) =
      .ok () (s.onBand p b (bd.selected4 s halfpel im iq e is2d scan blk) (h.selected4 halfpel e.1) 38) := by
  obtain ⟨hsized, hhalf, hsum, hindx, hblk, him, hiq, hkeep, hown, hmap, hcorr⟩ := hplain
  have hblkSize : 8 / 2 ^ (field s 11 2 / 2) = blk := by
    rw [hblk]
    interval_cases field s 11 2 <;> rfl
  have hmbSize : 16 / 2 ^ field s 11 2 = if field s 11 2 = 0 then 16 else if field s 11 2 = 1 then 8 else 4 := by
    interval_cases field s 11 2 <;> rfl
  cases halfpel <;>
    simp [bandFields4, M.bind_apply, readBits_onBand hb hs, readFlag_onBand hb hs, readField_onBand hb hs,
      getBand_onBand hbd, readBandChecksum_onBand hb hs _ hsum, hsized, hhalf, hindx.ne, hblkSize, hmbSize, him, hiq,
      hkeep, bandSelection4_onBand hb hbd hs hsel, checkSelection4_onBand hbd hsel.setSize, quantTab4_eq hsel.matrix,
      hown, hmap, hcorr, readBandRvmap, Band.selected4, Header.selected4]

end Selecting

theorem bandHeader4_empty (hb : s.bound = true) (hbd : s.band? p b = some bd') (hs : streamHas s 7)
    (hplane : field s 0 2 = p) (hband : field s 2 4 = b) (hempty : field s 6 1 = 1) {t : Fin 6}
    (ht : s.params.quant4.indexToTab[bd.quantMat.toNat]? = some t) (hfour : bd.blkSize = 4 → t.val < 5)
    (hscan : bd.scan ≠ none) (hin : within s (aligned (s.br.index + 7))) :
    ∃ intra inter, IsBases4 s.params.quant4 t bd.blkSize intra inter ∧
      bandHeader4 p b (s.onBand p b bd h 0) = .ok () (s.onBand p b { bd with
        isEmpty := true, intraBase := some intra, interBase := some inter, intraScale := none, interScale := none } h
        (aligned (s.br.index + 7) - s.br.index)) := by
  have hstart := bandHeader4_onBand (bd := bd) (h := h) hb hs le_rfl hplane hband
  rw [hempty] at hstart
  rw [hstart.trans (M.bind_ok (done_apply _))]
  exact bandEnd4_onBand (bd := { bd with isEmpty := true }) hb hbd ht hfour hscan hin

theorem bandHeader4_selects (hb : s.bound = true) (hbd : s.band? p b = some bd') (hs : streamHas s 38)
    (hplane : field s 0 2 = p) (hband : field s 2 4 = b) (hempty : field s 6 1 = 0) {e : Transform4} {is2d : Bool}
    {scan : List Nat} {t : Fin 6} {blk : Nat} {halfpel im iq : Bool} (hplain : Plain4 s halfpel im iq blk)
    (hsel : Selects4 s e is2d scan t blk) (hin : within s (aligned (s.br.index + 38))) :
    ∃ intra inter, IsBases4 s.params.quant4 t blk intra inter ∧
      bandHeader4 p b (s.onBand p b bd h 0) = .ok () (s.onBand p b { bd.selected4 s halfpel im iq e is2d scan blk with
          intraBase := some intra, interBase := some inter, intraScale := none, interScale := none }
        (h.selected4 halfpel e.1) (aligned (s.br.index + 38) - s.br.index)) := by
  have hstart := bandHeader4_onBand (bd := bd) (h := h) hb hs (by decide) hplane hband
  rw [hempty] at hstart
  rw [hstart.trans (M.bind_ok (bandFields4_onBand hb hbd hs hplain hsel))]
  exact bandEnd4_onBand (bd := bd.selected4 s halfpel im iq e is2d scan blk) hb hbd hsel.matrix hsel.setSize
    (Option.some_ne_none scan) hin

end Sys2Proof.Machine

namespace Sys2Proof.Proofs.EncodingFamily

open Sys2Proof.Machine Sys2Proof.Claims

/-- Settles O44: each header is read bit by bit in a state where only the band, the header flags and the cursor move. -/
theorem bandHeaderCompletes : Obligations.BandHeaderCompletes := by
  intro p b s bd hp hb hbd gives
  refine ⟨fun hcodec hs hflag => ?_, fun hcodec hreuse hs hflags hsize hsum hin => ?_,
    fun hcodec hs hplane hband hempty hscan hin t ht hfour _ => ?_, ?_⟩
  · exact exec_bandhdr_ok hp hb hbd rfl ((bandHeader_indeo5 hcodec).trans (bandHeader5_empty hb hs hflag))
  · exact exec_bandhdr_ok hp hb hbd (add_aligned_sub _ _)
      ((bandHeader_indeo5 hcodec).trans (bandHeader5_plain hb hs hreuse hflags hsize hsum hin))
  · obtain ⟨intra, inter, ⟨h8, h4⟩, hrun⟩ := bandHeader4_empty hb hbd hs hplane hband hempty ht hfour hscan hin
    exact ⟨intra, inter, h8, h4,
      exec_bandhdr_ok hp hb hbd (add_aligned_sub _ _) ((bandHeader_indeo4 hcodec).trans hrun)⟩
  · intro e he is2d scan t halfpel im iq hcodec hs hplane hband hempty hsized hhalf hsum hindx him hiq hkeep hid blk
      hsize hplace hscan h2d hnotOwn ht hfour hown hmap hcorr hin
    have hblk : blk = if 5 ≤ field s 26 4 ∧ field s 26 4 ≤ 9 then 4 else 8 := by
      split_ifs with hsc
      · exact hplace.mpr hsc
      · exact if_neg fun h2 => hsc (hplace.mp (if_pos h2))
    have hplain : Plain4 s halfpel im iq blk := ⟨hsized, hhalf, hsum, hindx, rfl, him, hiq, hkeep, hown, hmap, hcorr⟩
    have hsel : Selects4 s e is2d scan t blk := ⟨he, hid, hsize, h2d, hscan, hblk, hnotOwn, ht, hfour⟩
    obtain ⟨intra, inter, ⟨h8, h4⟩, hrun⟩ := bandHeader4_selects hb hbd hs hplane hband hempty hplain hsel hin
    exact ⟨intra, inter, h8, h4,
      exec_bandhdr_ok hp hb hbd (add_aligned_sub _ _) ((bandHeader_indeo4 hcodec).trans hrun)⟩

end Sys2Proof.Proofs.EncodingFamily
end

section
/-! SUPPORT. The bodies of the bit-reader commands (40_bitreader.md R140 to R153): what each leaves within the padding,
and that each raises without a bitstream and past the padding. -/

namespace Sys2Proof.Machine

open Sys2Proof.Claims

variable {s : State} {n : Nat} {i : Instr}

/-! ### The head check -/

theorem needStream_of_bound (hb : s.bound = true) : needStream s = none := if_pos hb

theorem needStream_of_unbound (hb : s.bound = false) : needStream s = some .badState := by
  simp [needStream, hb]

theorem checkVlc_of_unbound (hb : s.bound = false) (t b : Nat) : checkVlc t b s = some .badState := by
  simp [checkVlc, hb]

/-! ### Within the padding -/

theorem readToRes_ok (hb : s.bound = true) (hin : within s (s.br.index + n)) :
    readToRes n s = .ok () { s with
      br := atBit s (s.br.index + n)
      res := BitVec.ofNat 64 (s.peek n)
      draws := s.draws + s.drawsAhead n } :=
  M.bind_ok (readBits_ok hb (State.avail_iff.mpr hin))

theorem readSignedToRes_ok (hb : s.bound = true) (hin : within s (s.br.index + n)) :
    readSignedToRes n s = .ok () { s with
      br := atBit s (s.br.index + n)
      res := (BitVec.ofNat n (s.peek n)).signExtend 64
      draws := s.draws + s.drawsAhead n } :=
  M.bind_ok (readBits_ok hb (State.avail_iff.mpr hin))

theorem showToRes_ok (hb : s.bound = true) (hin : within s (s.br.index + n)) :
    showToRes n s = .ok () { s with
      res := BitVec.ofNat 64 (s.peek n)
      draws := s.draws + s.drawsAhead n } :=
  M.bind_ok (showBits_ok hb (State.avail_iff.mpr hin))

theorem skipBits_within (hb : s.bound = true) (hin : within s (s.br.index + n)) :
    skipBits n s = .ok () { s with br := atBit s (s.br.index + n) } :=
  skipBits_ok hb (State.avail_iff.mpr hin)

/-! ### Past the padding -/

theorem State.readError_past (hb : s.bound = true) (hout : ¬within s (s.br.index + n)) :
    s.readError n = some .brOverrun := by
  have havail : s.avail n = false := decide_eq_false hout
  simp [State.readError, hb, havail]

theorem readBits_past (hb : s.bound = true) (hout : ¬within s (s.br.index + n)) :
    readBits n s = .error .brOverrun s := by
  rw [readBits, State.readError_past hb hout]

theorem showBits_past (hb : s.bound = true) (hout : ¬within s (s.br.index + n)) :
    showBits n s = .error .brOverrun s := by
  rw [showBits, State.readError_past hb hout]

theorem skipBits_past (hb : s.bound = true) (hout : ¬within s (s.br.index + n)) :
    skipBits n s = .error .brOverrun s := by
  rw [skipBits, State.readError_past hb hout]

theorem alignBits_past (hb : s.bound = true) (hout : ¬within s (aligned s.br.index)) :
    alignBits s = .error .brOverrun s :=
  skipBits_past hb (by rwa [s.index_add_alignGap])

/-! ### Commands by their format -/

/-- A command that asks only for a bitstream, and whose body completes. -/
theorem exec_reader_ok {body : M Unit} {s' : State} (hexec : exec i s = command i needStream body s)
    (hwf : i.wellFormed = true) (hb : s.bound = true) (hbody : body s = .ok () s') : exec i s = .next s'.complete :=
  hexec.trans (command_ok hwf (needStream_of_bound hb) hbody)

/-- A command with a bit count checks for a bitstream first, and its body needs that many bits. -/
theorem exec_of_bitCount (h : bitCount i = some n) (s : State) :
    ∃ body : M Unit, exec i s = command i needStream body s ∧
      (s.bound = true → ¬within s (s.br.index + n) → body s = .error .brOverrun s) := by
  cases i with
  | getbits k | getbitslong k | getbits64 k | getsbits k | getsbitslong k =>
    cases h
    exact ⟨_, rfl, fun hb hout => M.bind_error (readBits_past hb hout)⟩
  | showbits k | showbitslong k =>
    cases h
    exact ⟨_, rfl, fun hb hout => M.bind_error (showBits_past hb hout)⟩
  | skipbits k | skipbitslong k =>
    cases h
    exact ⟨_, rfl, skipBits_past⟩
  | _ => cases h

/-- Every bit-reader command refuses at its head where no bitstream is bound. -/
theorem exec_of_isBitReader (h : isBitReader i = true) (s : State) :
    ∃ check body, exec i s = command i check body s ∧ (s.bound = false → check s = some .badState) := by
  cases i with
  | getvlc2 t d b => exact ⟨_, _, rfl, fun hb => checkVlc_of_unbound hb _ _⟩
  | align | bitscount | bitsleft => exact ⟨_, _, rfl, needStream_of_unbound⟩
  | getbits k | getbitslong k | getbits64 k | getsbits k | getsbitslong k | showbits k | showbitslong k | skipbits k
  | skipbitslong k => exact ⟨_, _, rfl, needStream_of_unbound⟩
  | _ => cases h

/-! ### Signed values -/

/-- The `n` bits of a number as a signed value: the top bit weighs `-2^(n-1)` (R145). -/
theorem toInt_ofNat_of_lt {v : Nat} (hv : v < 2 ^ n) : (BitVec.ofNat n v).toInt =
    if n = 0 then 0 else if v < 2 ^ (n - 1) then (v : Int) else (v : Int) - 2 ^ n := by
  rw [BitVec.toInt_eq_toNat_cond, BitVec.toNat_ofNat, Nat.mod_eq_of_lt hv]
  cases n with
  | zero =>
    have hv0 : v = 0 := by omega
    simp [hv0]
  | succ n =>
    have htop : 2 * v < 2 ^ (n + 1) ↔ v < 2 ^ n := by omega
    simp [htop]

end Sys2Proof.Machine

namespace Sys2Proof.Proofs.BitReaderFamily

open Sys2Proof.Machine Sys2Proof.Claims

/-- Settles O6: the three commands have one body. -/
theorem readsUnsigned : Obligations.ReadsUnsigned := by
  intro n s i hb hin hi
  have hread := readToRes_ok hb hin
  rcases hi with ⟨rfl, hpos, hmax⟩ | ⟨rfl, hmax⟩ | ⟨rfl, hmax⟩
  · exact exec_reader_ok (i := .getbits n) rfl (decide_eq_true ⟨hpos, hmax⟩) hb hread
  · exact exec_reader_ok (i := .getbitslong n) rfl (decide_eq_true hmax) hb hread
  · exact exec_reader_ok (i := .getbits64 n) rfl (decide_eq_true hmax) hb hread

/-- Settles O7: the sign extension of the `N` bits is their signed value. -/
theorem readsSigned : Obligations.ReadsSigned := by
  intro n s i hb hin hi
  have hzero : n.toNat = 0 ↔ n = 0 := by bv_omega
  have hread := readSignedToRes_ok hb hin
  rw [BitVec.signExtend, toInt_ofNat_of_lt (s.peek_lt n.toNat), ite_cond_congr (propext hzero)] at hread
  rcases hi with ⟨rfl, hpos, hmax⟩ | ⟨rfl, hmax⟩
  · exact exec_reader_ok (i := .getsbits n) rfl (decide_eq_true ⟨hpos, hmax⟩) hb hread
  · exact exec_reader_ok (i := .getsbitslong n) rfl (decide_eq_true hmax) hb hread

/-- Settles O8: looking at bits and at the cursor writes `RES` only. -/
theorem looksWithoutMoving : Obligations.LooksWithoutMoving := by
  refine fun s hb => ⟨fun n i hin hi => ?_, ?_, ?_⟩
  · have hshow := showToRes_ok hb hin
    rcases hi with ⟨rfl, hpos, hmax⟩ | ⟨rfl, hmax⟩
    · exact exec_reader_ok (i := .showbits n) rfl (decide_eq_true ⟨hpos, hmax⟩) hb hshow
    · exact exec_reader_ok (i := .showbitslong n) rfl (decide_eq_true hmax) hb hshow
  · exact exec_reader_ok (i := .bitscount) rfl rfl hb rfl
  · exact exec_reader_ok (i := .bitsleft) rfl rfl hb rfl

/-- Settles O9: a skip is a move of the cursor, and ALIGN is the skip to the next multiple of 8. -/
theorem skipsMoveTheCursor : Obligations.SkipsMoveTheCursor := by
  refine fun s hb => ⟨fun n hin => ?_, fun hin => ?_⟩
  · have hskip := skipBits_within hb hin
    exact ⟨exec_reader_ok rfl rfl hb hskip, exec_reader_ok rfl rfl hb hskip⟩
  · exact exec_reader_ok rfl rfl hb (alignBits_ok hb hin)

/-- Settles O10: the body of each command raises on the state it starts from. -/
theorem pastPaddingOverruns : Obligations.PastPaddingOverruns := by
  refine fun s hb => ⟨fun i n hcount hwf hout => ?_, fun hout => ?_⟩
  · obtain ⟨body, hexec, hraise⟩ := exec_of_bitCount hcount s
    exact hexec.trans (command_raises hwf (needStream_of_bound hb) (hraise hb hout))
  · exact command_raises rfl (needStream_of_bound hb) (alignBits_past hb hout)

/-- Settles O11: the head check of each command is the first thing after its fields. -/
theorem noStreamBadState : Obligations.NoStreamBadState := by
  intro i s hreader hwf hb
  obtain ⟨check, body, hexec, hcheck⟩ := exec_of_isBitReader hreader s
  exact hexec.trans (command_headError hwf (hcheck hb))

end Sys2Proof.Proofs.BitReaderFamily
end

section
/-! SUPPORT. The next bits cut in two: the bits, the number they make under each bit order (20_memory.md R82), and the
read of each part (40_bitreader.md R154). -/

namespace Sys2Proof.Machine

open Sys2Proof.Claims

variable {s : State} {n m : Nat}

theorem bitsLE_append (as bs : List Bool) : bitsLE (as ++ bs) = bitsLE as + bitsLE bs * 2 ^ as.length := by
  induction as with
  | nil => simp [bitsLE]
  | cons a as ih =>
    rw [List.cons_append, bitsLE, bitsLE, ih, List.length_cons, pow_succ]
    ring

theorem bitsBE_append (as bs : List Bool) : bitsBE (as ++ bs) = bitsBE as * 2 ^ bs.length + bitsBE bs := by
  induction as with
  | nil => simp [bitsBE]
  | cons a as ih =>
    rw [List.cons_append, bitsBE, bitsBE, ih, List.length_append, pow_add]
    ring

@[simp] theorem State.bitsAhead_length (s : State) (n : Nat) : (s.bitsAhead n).length = n := by simp [State.bitsAhead]

/-- A bit of the stream is the same bit seen from further on; a draw would be drawn again (log 4). -/
theorem State.bitAhead_moved {k : Nat} (h : (s.bsBit (s.br.index + (n + k))).isSome = true) :
    (s.moved n).bitAhead k = s.bitAhead (n + k) := by
  obtain ⟨bit, hbit⟩ := Option.isSome_iff_exists.mp h
  have hmoved : (s.moved n).bsBit ((s.moved n).br.index + k) = some bit := by
    rw [← hbit, ← Nat.add_assoc]
    rfl
  rw [State.bitAhead, State.bitAhead, hmoved, hbit]
  rfl

theorem State.bitsAhead_add (h : streamHas s (n + m)) :
    s.bitsAhead (n + m) = s.bitsAhead n ++ (s.moved n).bitsAhead m := by
  unfold State.bitsAhead
  rw [List.range_add, List.map_append, List.map_map]
  congr 1
  refine List.map_congr_left fun k hk => ?_
  exact (State.bitAhead_moved (h (n + k) (Nat.add_lt_add_left (List.mem_range.mp hk) n))).symm

theorem State.peek_add_le (hle : s.params.bitOrder = .le) (h : streamHas s (n + m)) :
    s.peek (n + m) = s.peek n + (s.moved n).peek m * 2 ^ n := by
  rw [State.peek_le hle, State.peek_le hle, State.peek_le (s := s.moved n) hle, State.bitsAhead_add h, bitsLE_append,
    State.bitsAhead_length]

theorem State.peek_add_be (hbe : s.params.bitOrder = .be) (h : streamHas s (n + m)) :
    s.peek (n + m) = s.peek n * 2 ^ m + (s.moved n).peek m := by
  rw [State.peek_be hbe, State.peek_be hbe, State.peek_be (s := s.moved n) hbe, State.bitsAhead_add h, bitsBE_append,
    State.bitsAhead_length]

/-- GETBITSLONG on bits of the stream draws nothing. -/
theorem exec_getbitslong_of_streamHas {n : BitVec 7} (hn : n.toNat ≤ 32) (hb : s.bound = true)
    (hin : within s (s.br.index + n.toNat)) (h : streamHas s n.toNat) :
    exec (.getbitslong n) s =
      .next { s.moved n.toNat with res := BitVec.ofNat 64 (s.peek n.toNat), err := .none } := by
  have hread := readToRes_ok hb hin
  rw [State.drawsAhead_of_streamHas h] at hread
  exact exec_reader_ok (i := .getbitslong n) rfl (decide_eq_true hn) hb hread

/-- `RES` holds every bit of a read of at most 32. -/
theorem toNat_ofNat_peek (s : State) (hn : n ≤ 32) : (BitVec.ofNat 64 (s.peek n)).toNat = s.peek n := by
  have hlt : 2 ^ n < 2 ^ 64 := Nat.pow_lt_pow_right Nat.one_lt_two (by omega)
  rw [BitVec.toNat_ofNat, Nat.mod_eq_of_lt ((s.peek_lt n).trans hlt)]

end Sys2Proof.Machine

namespace Sys2Proof.Proofs.BitReaderFamily

open Sys2Proof.Machine Sys2Proof.Claims

/-- Settles O14: the bits of one read are those of the two reads one after the other, and so is the number they make. -/
theorem readSplit : Obligations.ReadSplit := by
  intro n m s hsum hb hin hs
  have hadd : (n + m).toNat = n.toNat + m.toNat := by bv_omega
  have hin' : within s (s.br.index + n.toNat + m.toNat) := by rwa [Nat.add_assoc]
  refine ⟨_, _, _,
    exec_getbitslong_of_streamHas (by omega) hb ((Nat.le_add_right _ _).trans hin') fun k hk => hs k (by omega),
    exec_getbitslong_of_streamHas (by omega) hb hin' (streamHas_moved hs le_rfl),
    exec_getbitslong_of_streamHas (by omega) hb (by rwa [hadd]) (by rwa [hadd]), fun hle => ?_, fun hbe => ?_, ?_⟩
  · rw [toNat_ofNat_peek s (by omega), toNat_ofNat_peek _ (by omega), toNat_ofNat_peek s (by omega), hadd]
    exact (State.peek_add_le hle hs).symm
  · rw [toNat_ofNat_peek s (by omega), toNat_ofNat_peek _ (by omega), toNat_ofNat_peek s (by omega), hadd]
    exact (State.peek_add_be hbe hs).symm
  · simp [State.moved, hadd, Nat.add_assoc]

end Sys2Proof.Proofs.BitReaderFamily
end

section
/-! SUPPORT. GETVLC2 at the first level of a table (40_bitreader.md R160): the entry the index selects (41_vlc.md R176),
and the command that reads a symbol. -/

namespace Sys2Proof.Machine

open Sys2Proof.Claims

variable {s s' : State} {codes : List VlcCode} {c : VlcCode} {idx : List Bool} {root n len depth : Nat}
  {tbl : VlcTable} {sym : Int}

/-! ### The entry -/

/-- At most one code of a list in which none begins another begins the same bits. -/
theorem eq_of_prefixFree {d : VlcCode} (hfree : prefixFree codes = true) (hc : c ∈ codes) (hd : d ∈ codes)
    (hcidx : c.bits <+: idx) (hdidx : d.bits <+: idx) : c = d := by
  by_contra hne
  have hsymm : Std.Symm VlcCode.Apart := ⟨fun _ _ h => h.symm⟩
  obtain ⟨hcd, hdc⟩ := (prefixFree_iff.mp hfree).forall hc hd hne
  exact (List.prefix_or_prefix_of_prefix hcidx hdidx).elim hcd hdc

theorem vlcEntry_code (hfree : prefixFree codes = true) (hc : c ∈ codes) (hlen : c.bits.length ≤ n)
    (hidx : c.bits.isPrefixOf idx = true) : vlcEntry root codes n idx = .code c.sym c.bits.length := by
  have hfind : codes.find? (fun c => decide (c.bits.length ≤ n) && c.bits.isPrefixOf idx) = some c := by
    cases hfound : codes.find? fun c => decide (c.bits.length ≤ n) && c.bits.isPrefixOf idx with
    | none => simpa [hlen, hidx] using List.find?_eq_none.mp hfound c hc
    | some d =>
      have hd := List.find?_some hfound
      rw [Bool.and_eq_true, List.isPrefixOf_iff_prefix] at hd
      rw [eq_of_prefixFree hfree hc (List.mem_of_find?_eq_some hfound) (List.isPrefixOf_iff_prefix.mp hidx) hd.2]
  rw [vlcEntry, hfind]

theorem vlcEntry_empty (h : ∀ c ∈ codes, c.bits.isPrefixOf idx = false ∧ idx.isPrefixOf c.bits = false) :
    vlcEntry root codes n idx = .empty := by
  have hfind : codes.find? (fun c => decide (c.bits.length ≤ n) && c.bits.isPrefixOf idx) = none :=
    List.find?_eq_none.mpr fun c hc => by simp [(h c hc).1]
  have hgroup : subGroup codes n idx = [] := by
    rw [subGroup, List.map_eq_nil_iff]
    exact List.filter_eq_nil_iff.mpr fun c hc => by simp [(h c hc).2]
  rw [vlcEntry, hfind, hgroup]

/-! ### The symbol -/

theorem keepingCursor_ok {α : Type} {m : M α} {a : α} (h : m s = .ok a s') : keepingCursor m s = .ok a s' := by
  rw [keepingCursor, h]

theorem vlcSymbol_code (hdepth : depth ≠ 0) (hb : s.bound = true)
    (hentry : vlcEntry tbl.rootBits tbl.codes tbl.rootBits (s.bitsAhead tbl.rootBits) = .code sym len)
    (hin : within s (s.br.index + len)) :
    vlcSymbol tbl depth s = .ok sym ((s.looked tbl.rootBits).moved len) := by
  obtain ⟨depth, rfl⟩ := Nat.exists_eq_succ_of_ne_zero hdepth
  refine keepingCursor_ok ?_
  rw [vlcWalk, M.bind_ok (show peekIndex tbl.rootBits s = .ok _ _ from rfl), hentry]
  exact M.bind_ok (skipBits_ok (s := s.looked tbl.rootBits) hb (State.avail_iff.mpr hin))

theorem vlcSymbol_empty (hdepth : depth ≠ 0)
    (hentry : vlcEntry tbl.rootBits tbl.codes tbl.rootBits (s.bitsAhead tbl.rootBits) = .empty) :
    vlcSymbol tbl depth s = .ok (-1) (s.looked tbl.rootBits) := by
  obtain ⟨depth, rfl⟩ := Nat.exists_eq_succ_of_ne_zero hdepth
  refine keepingCursor_ok ?_
  rw [vlcWalk, M.bind_ok (show peekIndex tbl.rootBits s = .ok _ _ from rfl), hentry]
  rfl

/-! ### The command -/

theorem getvlc2_depth_ne_zero {t : BitVec 6} {d : BitVec 2} {b : BitVec 5}
    (hwf : (Instr.getvlc2 t d b).wellFormed = true) : d.toNat ≠ 0 := by
  simp only [Instr.wellFormed, Bool.and_eq_true, decide_eq_true_eq] at hwf
  omega

/-- GETVLC2 that reads a symbol of its table, or -1. -/
theorem exec_getvlc2_ok {t : BitVec 6} {d : BitVec 2} {b : BitVec 5} (hwf : (Instr.getvlc2 t d b).wellFormed = true)
    (hb : s.bound = true) (htbl : s.table? t.toNat = some tbl) (hroot : tbl.rootBits = b.toNat)
    (hsym : vlcSymbol tbl d.toNat s = .ok sym s') :
    exec (.getvlc2 t d b) s = .next { s' with res := BitVec.ofInt 64 sym, err := .none } := by
  have hcheck : checkVlc t.toNat b.toNat s = none := by simp [checkVlc, hb, htbl, hroot]
  have hbody : vlcToRes t.toNat d.toNat s = .ok () { s' with res := BitVec.ofInt 64 sym } := by
    simp [vlcToRes, M.bind_apply, htbl, hsym]
  exact command_ok hwf hcheck hbody

end Sys2Proof.Machine

namespace Sys2Proof.Proofs.BitReaderFamily

open Sys2Proof.Machine Sys2Proof.Claims

/-- Settles O15: the index selects the one code that begins the bits, or the empty entry where no code fits them. -/
theorem vlcFirstLevel : Obligations.VlcFirstLevel := by
  intro t d b s tbl hwf hb htbl hroot
  have hdepth := getvlc2_depth_ne_zero hwf
  refine ⟨fun c hc hfree hlen hpre hin => ?_, fun hnone => ?_⟩
  · rw [← hroot] at hlen hpre ⊢
    exact exec_getvlc2_ok hwf hb htbl hroot (vlcSymbol_code hdepth hb (vlcEntry_code hfree hc hlen hpre) hin)
  · rw [← hroot] at hnone ⊢
    exact exec_getvlc2_ok hwf hb htbl hroot (vlcSymbol_empty hdepth (vlcEntry_empty hnone))

end Sys2Proof.Proofs.BitReaderFamily
end

section
/-! SUPPORT. What a built table holds (41_vlc.md R171 to R175): its codes are those of the rows, none of them empty, with
the symbols counted on and with a Kraft sum of 1. -/

namespace Sys2Proof.Machine

variable {policy : Over256} {maxLen i x pos : Nat} {xs : List Nat} {codes : List VlcCode} {last : Bool}

/-! ### The rows of a build -/

/-- A build that succeeds takes every code of its first row and goes on, or stops in that row at the 256th code. -/
theorem buildRows_cons_cases (h : buildRows policy maxLen i (x :: xs) pos = .ok codes) :
    (pos + 2 ^ x ≤ 256 ∧ ∃ rest, buildRows policy maxLen (i + 1) xs (pos + 2 ^ x) = .ok rest ∧
      codes = rowCodes i x xs.isEmpty pos (2 ^ x) ++ rest) ∨
    (256 < pos + 2 ^ x ∧ codes = rowCodes i x xs.isEmpty pos (256 - pos)) := by
  have hx : 0 < 2 ^ x := Nat.two_pow_pos x
  have hlength : i + x + (if xs.isEmpty then 0 else 1) = rowLength i x xs.isEmpty := rfl
  unfold buildRows at h
  dsimp only [Config.maxCodes] at h
  rw [hlength] at h
  split_ifs at h with hroom hlong hmany
  · cases policy with
    | error => cases h
    | truncate =>
      cases h
      exact .inr ⟨by omega, by rw [hroom]; rfl⟩
  · cases policy with
    | error => cases h
    | truncate =>
      cases h
      exact .inr ⟨by omega, rfl⟩
  · cases hrest : buildRows policy maxLen (i + 1) xs (pos + 2 ^ x) with
    | error e => rw [hrest] at h; cases h
    | ok rest =>
      rw [hrest] at h
      cases h
      exact .inl ⟨by omega, rest, rfl, rfl⟩

theorem rowCodes_sym (i x : Nat) (last : Bool) (pos n : Nat) :
    (rowCodes i x last pos n).map VlcCode.sym = (List.range' pos n).map Int.ofNat := by
  rw [rowCodes, List.range'_eq_map_range, List.map_map, List.map_map]
  rfl

/-- The codes come in the order of their symbols, which count on from the build position up to the 256th (R173). -/
theorem buildRows_sym (h : buildRows policy maxLen i xs pos = .ok codes) :
    codes.map VlcCode.sym =
      (List.range' pos (min (xs.map fun x => 2 ^ x).sum (256 - pos))).map Int.ofNat := by
  induction xs generalizing i pos codes with
  | nil =>
    cases h
    simp
  | cons x xs ih =>
    rw [List.map_cons, List.sum_cons]
    rcases buildRows_cons_cases h with ⟨hfit, rest, hrest, rfl⟩ | ⟨hcut, rfl⟩
    · rw [List.map_append, rowCodes_sym, ih hrest, ← List.map_append, List.range'_append_1, ← Nat.sub_sub,
        ← Nat.add_min_add_left, Nat.add_sub_cancel' (Nat.le_sub_of_add_le' hfit)]
    · rw [rowCodes_sym, min_eq_right ((Nat.sub_le_iff_le_add'.mpr hcut.le).trans (Nat.le_add_right _ _))]

theorem rowCodes_ne_nil {n : Nat} {c : VlcCode} (hc : c ∈ rowCodes i x last pos n) : c.bits ≠ [] := by
  obtain ⟨j, -, rfl⟩ := List.mem_map.mp hc
  exact rowCode_ne_nil i x last j

theorem buildRows_ne_nil (h : buildRows policy maxLen i xs pos = .ok codes) : ∀ c ∈ codes, c.bits ≠ [] := by
  induction xs generalizing i pos codes with
  | nil =>
    cases h
    simp
  | cons x xs ih =>
    rcases buildRows_cons_cases h with ⟨-, rest, hrest, rfl⟩ | ⟨-, rfl⟩
    · exact List.forall_mem_append.mpr ⟨fun c hc => rowCodes_ne_nil hc, ih hrest⟩
    · exact fun c hc => rowCodes_ne_nil hc

/-! ### The Kraft sum -/

/-- The Kraft sum of codes of at most 32 bits, in units of `2 ^ -32` (R174). -/
def kraftSum (codes : List VlcCode) : Nat := (codes.map fun c => 2 ^ (32 - c.bits.length)).sum

theorem kraftSum_append (as bs : List VlcCode) : kraftSum (as ++ bs) = kraftSum as + kraftSum bs := by
  simp [kraftSum]

/-- The codes of one row have one length. -/
theorem kraftSum_rowCodes (hpos : 1 ≤ rowLength i x last) (n : Nat) :
    kraftSum (rowCodes i x last pos n) = n * 2 ^ (32 - rowLength i x last) := by
  have hlen : ∀ j, (rowCode i x last j).length = rowLength i x last := fun j => by
    rw [rowCode_length, max_eq_right hpos]
  simp [kraftSum, rowCodes, Function.comp_def, hlen]

/-- A whole row has codes of the one length. -/
theorem rowLength_le_of_forall {len : Nat} {rest : List VlcCode}
    (h : ∀ c ∈ rowCodes i x last pos (2 ^ x) ++ rest, c.bits.length ≤ len) : rowLength i x last ≤ len := by
  have hmem : ⟨rowCode i x last 0, ((pos + 0 : Nat) : Int)⟩ ∈ rowCodes i x last pos (2 ^ x) :=
    List.mem_map.mpr ⟨0, List.mem_range.mpr (Nat.two_pow_pos x), rfl⟩
  have hlen := h _ (List.mem_append_left _ hmem)
  rw [rowCode_length] at hlen
  exact (le_max_right _ _).trans hlen

/-- The rows from `i` on share the beginning of `i` one-bits and fill the place under it: a row that is not the last takes
the half that goes on with a zero bit, the last row takes all. -/
theorem kraftSum_buildRows (h : buildRows policy maxLen i xs pos = .ok codes)
    (hcount : pos + (xs.map fun x => 2 ^ x).sum ≤ 256) (hrows : xs ≠ []) (hcode : i ≠ 0 ∨ xs ≠ [0])
    (hlen : ∀ c ∈ codes, c.bits.length ≤ 32) : kraftSum codes = 2 ^ (32 - i) := by
  induction xs generalizing i pos codes with
  | nil => exact absurd rfl hrows
  | cons x xs ih =>
    rw [List.map_cons, List.sum_cons] at hcount
    rcases buildRows_cons_cases h with ⟨-, rest, hrest, rfl⟩ | ⟨hcut, -⟩
    · have hrow := rowLength_le_of_forall hlen
      cases xs with
      | nil =>
        cases hrest
        have hlast : rowLength i x true = i + x := rfl
        have hne : i ≠ 0 ∨ x ≠ 0 := by simpa using hcode
        rw [List.isEmpty_nil, hlast] at hrow
        rw [List.append_nil, List.isEmpty_nil, kraftSum_rowCodes (by omega), hlast, ← pow_add]
        congr 1
        omega
      | cons y ys =>
        have hmid : rowLength i x false = i + x + 1 := rfl
        rw [List.isEmpty_cons, hmid] at hrow
        have hbelow := ih hrest (by omega) (List.cons_ne_nil y ys) (.inl (Nat.succ_ne_zero i))
          fun c hc => hlen c (List.mem_append_right _ hc)
        rw [List.isEmpty_cons, kraftSum_append, hbelow, kraftSum_rowCodes (by omega), hmid, ← pow_add,
          show x + (32 - (i + x + 1)) = 32 - (i + 1) by omega, ← two_mul, ← pow_succ']
        congr 1
        omega
    · omega

/-! ### The table of a descriptor -/

/-- INITVLC keeps the codes that have a bit, of 32 bits at most and none beginning another (R175). -/
theorem initVlc_eq_ok {root : Nat} {tbl : VlcTable} (h : initVlc root codes = .ok tbl) :
    tbl = ⟨root, codes.filter fun c => !c.bits.isEmpty⟩ ∧ prefixFree tbl.codes = true ∧
      ∀ c ∈ codes, c.bits.length ≤ 32 := by
  rw [initVlc] at h
  split_ifs at h with hroot hlong hfree
  cases h
  exact ⟨rfl, hfree, by simpa [Config.maxCodeLen] using hlong⟩

/-- HUFFBUILD's table holds the codes of the rows, all of them (R171). -/
theorem huffBuild_eq_ok {p : Params} {desc : HuffDesc} {tbl : VlcTable} (h : huffBuild p desc = .ok tbl) :
    buildRows p.over256 p.maxCodeLenIvi 0 (descRows desc) 0 = .ok tbl.codes ∧ tbl.rootBits = 13 ∧
      prefixFree tbl.codes = true ∧ ∀ c ∈ tbl.codes, c.bits ≠ [] ∧ c.bits.length ≤ 32 := by
  rw [huffBuild] at h
  cases hrows : buildRows p.over256 p.maxCodeLenIvi 0 (descRows desc) 0 with
  | error e => rw [hrows] at h; cases h
  | ok codes =>
    rw [hrows] at h
    obtain ⟨rfl, hfree, hlen⟩ := initVlc_eq_ok h
    have hne := buildRows_ne_nil hrows
    have hkept : codes.filter (fun c => !c.bits.isEmpty) = codes :=
      List.filter_eq_self.mpr fun c hc => by simp [hne c hc]
    rw [hkept] at hfree ⊢
    exact ⟨rfl, rfl, hfree, fun c hc => ⟨hne c hc, hlen c hc⟩⟩

end Sys2Proof.Machine

namespace Sys2Proof.Proofs.VlcFamily

open Sys2Proof.Machine Sys2Proof.Claims

/-- Settles O18: each clause is read off the rows, and the count off the symbols. -/
theorem huffCodes : Obligations.HuffCodes := by
  intro p desc tbl h
  obtain ⟨hrows, -, hfree, hbits⟩ := huffBuild_eq_ok h
  have hsym := buildRows_sym hrows
  rw [Nat.sub_zero, ← List.range_eq_range'] at hsym
  refine ⟨hfree, ?_, hsym, fun htotal hne hne0 => ?_⟩
  · simpa using congrArg List.length hsym
  · exact kraftSum_buildRows hrows (by rwa [Nat.zero_add]) hne (.inr hne0) fun c hc => (hbits c hc).2

end Sys2Proof.Proofs.VlcFamily
end

section
/-! SUPPORT. GETVLC2 down the levels of a table (40_bitreader.md R160): on a stream that holds a code, each level selects
the code or the group of the codes that begin as it does (41_vlc.md R176, R177). -/

namespace Sys2Proof.Machine

open Sys2Proof.Claims

variable {s : State} {codes : List VlcCode} {c : VlcCode} {bits : List Bool} {root n depth : Nat}

/-! ### A stream that holds a bit string -/

/-- The next bits of the stream are the listed ones. -/
def State.Holds (s : State) (bits : List Bool) : Prop := ∀ k, k < bits.length → s.bsBit (s.br.index + k) = bits[k]?

theorem State.Holds.bitAhead {k : Nat} (h : s.Holds bits) (hk : k < bits.length) : s.bitAhead k = bits[k] := by
  rw [State.bitAhead, h k hk, List.getElem?_eq_getElem hk, Option.getD_some]

theorem State.Holds.streamHas (h : s.Holds bits) (hn : n ≤ bits.length) : streamHas s n := fun k hk => by
  rw [h k (hk.trans_le hn), List.getElem?_eq_getElem (hk.trans_le hn), Option.isSome_some]

theorem State.Holds.bitsAhead (h : s.Holds bits) (hn : n ≤ bits.length) : s.bitsAhead n = bits.take n := by
  refine List.ext_getElem (by simp [hn]) fun k hk _ => ?_
  rw [State.bitsAhead_length] at hk
  simp [State.bitsAhead, h.bitAhead (hk.trans_le hn)]

/-- More bits than the string has begin with it. -/
theorem State.Holds.prefix_bitsAhead (h : s.Holds bits) (hn : bits.length ≤ n) : bits <+: s.bitsAhead n := by
  have htake : (s.bitsAhead n).take bits.length = s.bitsAhead bits.length := by
    rw [State.bitsAhead, ← List.map_take, List.take_range, min_eq_left hn, State.bitsAhead]
  rw [List.prefix_iff_eq_take, htake, h.bitsAhead le_rfl, List.take_length]

theorem State.Holds.moved (h : s.Holds bits) (n : Nat) : (s.moved n).Holds (bits.drop n) := fun k hk => by
  rw [List.length_drop] at hk
  rw [List.getElem?_drop, ← h (n + k) (by omega), ← Nat.add_assoc]
  rfl

/-- Looking at bits draws, and leaves the stream. -/
theorem State.Holds.looked (h : s.Holds bits) (n : Nat) : (s.looked n).Holds bits := h

theorem skipBits_of_streamHas (hb : s.bound = true) (hn : 0 < n) (h : streamHas s n) :
    skipBits n s = .ok () (s.moved n) :=
  skipBits_ok hb (State.avail_of_streamHas hn h)

/-! ### Groups -/

/-- What a code of a level leaves in its group. -/
def VlcCode.rest (n : Nat) (c : VlcCode) : VlcCode := { c with bits := c.bits.drop n }

/-- A code longer than the index is in the group that its first bits select. -/
theorem rest_mem_subGroup (hc : c ∈ codes) (hlen : n < c.bits.length) :
    c.rest n ∈ subGroup codes n (c.bits.take n) :=
  List.mem_map.mpr ⟨c, List.mem_filter.mpr ⟨hc, by simp [hlen, List.take_prefix]⟩, rfl⟩

/-- The codes of a group begin alike, so they are apart in what is left of them. -/
theorem prefixFree_subGroup {idx : List Bool} (hidx : idx.length = n) (hfree : prefixFree codes = true) :
    prefixFree (subGroup codes n idx) = true := by
  have hsplit : ∀ c : VlcCode, idx <+: c.bits → c.bits = idx ++ c.bits.drop n := fun c hc => by
    obtain ⟨l, hl⟩ := hc
    rw [← hl, ← hidx, List.drop_left]
  rw [prefixFree_iff] at hfree ⊢
  refine List.pairwise_map.mpr ((hfree.filter _).imp_of_mem fun {c d} hc hd hcd => ?_)
  simp only [List.mem_filter, Bool.and_eq_true, List.isPrefixOf_iff_prefix] at hc hd
  rw [VlcCode.Apart, hsplit c hc.2.2, hsplit d hd.2.2, List.prefix_append_right_inj, List.prefix_append_right_inj] at hcd
  exact hcd

theorem length_le_longest (hc : c ∈ codes) : c.bits.length ≤ longest codes := by
  induction codes with
  | nil => cases hc
  | cons d codes ih =>
    rcases List.mem_cons.mp hc with rfl | hc
    · exact le_max_left _ _
    · exact (ih hc).trans (le_max_right _ _)

/-- An index that is the beginning of a longer code selects the group of that code. -/
theorem vlcEntry_sub (hfree : prefixFree codes = true) (hc : c ∈ codes) (hlen : n < c.bits.length) :
    vlcEntry root codes n (c.bits.take n) = .sub (subGroup codes n (c.bits.take n))
      (min (longest (subGroup codes n (c.bits.take n))) root) := by
  have hfind : codes.find? (fun d => decide (d.bits.length ≤ n) && d.bits.isPrefixOf (c.bits.take n)) = none := by
    refine List.find?_eq_none.mpr fun d hd hmatch => ?_
    simp only [Bool.and_eq_true, decide_eq_true_eq, List.isPrefixOf_iff_prefix] at hmatch
    have hdc : d = c := eq_of_prefixFree hfree hd hc (hmatch.2.trans (List.take_prefix n c.bits)) List.prefix_rfl
    rw [hdc] at hmatch
    omega
  have hgroup := rest_mem_subGroup hc hlen
  rw [vlcEntry, hfind]
  cases hsub : subGroup codes n (c.bits.take n) with
  | nil => rw [hsub] at hgroup; cases hgroup
  | cons d ds => rfl

/-! ### The walk -/

/-- A level of `n` index bits shows the whole code, or all of the root width that a longer code needs. -/
theorem vlcWalk_code (hfree : prefixFree codes = true) (hc : c ∈ codes) (hne : c.bits ≠ [])
    (hdepth : c.bits.length ≤ root * depth) (hwidth : c.bits.length ≤ n ∨ n = root) (hb : s.bound = true)
    (hs : s.Holds c.bits) :
    ∃ d, vlcWalk root depth codes n s =
      .ok c.sym { s with br := atBit s (s.br.index + c.bits.length), draws := d } := by
  have hpos := List.length_pos_iff.mpr hne
  induction depth generalizing codes c n s with
  | zero => omega
  | succ depth ih =>
    have hpeek : peekIndex n s = .ok (s.bitsAhead n) (s.looked n) := rfl
    rw [vlcWalk, M.bind_ok hpeek]
    by_cases hlen : c.bits.length ≤ n
    · have hskip := skipBits_of_streamHas (s := s.looked n) hb hpos ((hs.looked n).streamHas le_rfl)
      rw [vlcEntry_code hfree hc hlen (List.isPrefixOf_iff_prefix.mpr (hs.prefix_bitsAhead hlen))]
      exact ⟨_, M.bind_ok hskip⟩
    · obtain rfl : n = root := hwidth.resolve_left hlen
      rw [not_le] at hlen
      have hn : 0 < n := Nat.pos_of_ne_zero fun h0 => hne (by simpa [h0] using hdepth)
      obtain ⟨depth, rfl⟩ := Nat.exists_eq_add_one_of_ne_zero (n := depth) fun h0 => by rw [h0] at hdepth; omega
      rw [hs.bitsAhead hlen.le, vlcEntry_sub hfree hc hlen]
      have hskip := skipBits_of_streamHas (s := s.looked n) hb hn ((hs.looked n).streamHas hlen.le)
      have hmem := rest_mem_subGroup hc hlen
      have hrest : (c.rest n).bits.length = c.bits.length - n := List.length_drop
      have hlongest := length_le_longest hmem
      rw [Nat.mul_succ] at hdepth
      obtain ⟨d, hd⟩ := ih (n := min (longest (subGroup codes n (c.bits.take n))) n) (s := (s.looked n).moved n)
        (prefixFree_subGroup (List.length_take_of_le hlen.le) hfree) hmem (List.length_pos_iff.mp (by omega))
        (by omega) (by omega) hb ((hs.looked n).moved n) (by omega)
      refine ⟨d, (M.bind_ok hskip).trans (hd.trans ?_)⟩
      rw [hrest]
      simp [State.moved, State.looked, atBit, VlcCode.rest, Nat.add_assoc, Nat.add_sub_cancel' hlen.le]

end Sys2Proof.Machine

namespace Sys2Proof.Proofs.VlcFamily

open Sys2Proof.Machine Sys2Proof.Claims

/-- Settles O16: the walk down the levels ends at the one code that the stream holds. -/
theorem vlcRoundTrip : Obligations.VlcRoundTrip := by
  intro p desc tbl htbl c hc s d hslot hb hs hd hdepth
  obtain ⟨-, hroot, hfree, hbits⟩ := huffBuild_eq_ok htbl
  have hwf : (Instr.getvlc2 48 d 13).wellFormed = true := by
    have hpos : 1 ≤ d.toNat := by bv_omega
    simp [Instr.wellFormed, legalVlcSlot, hpos]
  obtain ⟨draws, hwalk⟩ := vlcWalk_code hfree hc (hbits c hc).1 hdepth (.inr rfl) hb hs
  rw [← hroot] at hwalk
  exact ⟨_, exec_getvlc2_ok hwf hb hslot hroot (keepingCursor_ok hwalk), rfl⟩

end Sys2Proof.Proofs.VlcFamily
end

section
/-! SUPPORT. HUFFBUILD and INITVLC (41_vlc.md R171, R175): the table they put into slot 48, and the errors of the build. -/

namespace Sys2Proof.Machine

variable {s : State} {codes : List VlcCode} {root : Nat}

/-! ### The build of a list of codes -/

theorem initVlc_tableBits (h : root = 0 ∨ 30 < root) : initVlc root codes = .error .tableBits := by
  have hroot : Config.maxTableBits < root ∨ root = 0 := h.symm
  simp [initVlc, hroot]

theorem rootBits_legal (hmin : 1 ≤ root) (hmax : root ≤ 30) : ¬(Config.maxTableBits < root ∨ root = 0) := by
  unfold Config.maxTableBits
  omega

theorem initVlc_tooLong (hmin : 1 ≤ root) (hmax : root ≤ 30) (h : ∃ c ∈ codes, 32 < c.bits.length) :
    initVlc root codes = .error .tooLong := by
  have hlong : (codes.any fun c => decide (Config.maxCodeLen < c.bits.length)) = true := by
    simpa [List.any_eq_true] using h
  simp [initVlc, rootBits_legal hmin hmax, hlong]

/-- With a legal width and legal lengths only the code set decides. -/
theorem initVlc_of_short (hmin : 1 ≤ root) (hmax : root ≤ 30) (h : ∀ c ∈ codes, c.bits.length ≤ 32) :
    initVlc root codes =
      if prefixFree (codes.filter fun c => !c.bits.isEmpty) then .ok ⟨root, codes.filter fun c => !c.bits.isEmpty⟩
      else .error .badDesc := by
  have hlong : (codes.any fun c => decide (Config.maxCodeLen < c.bits.length)) = false :=
    List.any_eq_false.mpr fun c hc => by simpa [Config.maxCodeLen] using h c hc
  simp [initVlc, rootBits_legal hmin hmax, hlong]

@[simp] theorem oprCode_length (c : OprCode) : (oprCode c).bits.length = c.len := msbFirst_length _ _

/-! ### The commands -/

theorem buildInto48_ok {r : Except VlcError VlcTable} {failed : State → State} {tbl : VlcTable} (h : r = .ok tbl) :
    buildInto48 r failed s = .ok () { s with slot48 := some tbl } := by
  rw [h]
  rfl

theorem buildInto48_error {r : Except VlcError VlcTable} {failed : State → State} {e : VlcError} (h : r = .error e) :
    buildInto48 r failed s = .error e.kind (failed s) := by
  rw [h]
  rfl

/-- INITVLC of codes that build. -/
theorem exec_initvlc_ok {tbl : VlcTable} (h : initVlc s.opr.rootBits (s.opr.codes.map oprCode) = .ok tbl) :
    exec (.initvlc 48) s = .next { s with slot48 := some tbl, err := .none } :=
  command_ok (i := .initvlc 48) rfl rfl (buildInto48_ok h)

/-- INITVLC of codes that do not build. -/
theorem exec_initvlc_error {e : VlcError} (h : initVlc s.opr.rootBits (s.opr.codes.map oprCode) = .error e) :
    exec (.initvlc 48) s = .next (s.raised e.kind) :=
  command_raises (i := .initvlc 48) rfl rfl (buildInto48_error h)

end Sys2Proof.Machine

namespace Sys2Proof.Proofs.VlcFamily

open Sys2Proof.Machine Sys2Proof.Claims

/-- Settles O17: both commands store the outcome of their build, and INITVLC's build tests the width, the lengths and the
code set in this order. -/
theorem tableSlotBuilt : Obligations.TableSlotBuilt := by
  refine fun s => ⟨fun tbl h => ?_, fun e h => ?_, ?_⟩
  · exact command_ok (i := .huffbuild 48) (check := noCheck) rfl rfl (buildInto48_ok h)
  · exact command_raises (i := .huffbuild 48) (check := noCheck) rfl rfl (buildInto48_error h)
  · rintro kept rfl
    have hshort (hmin : 1 ≤ s.opr.rootBits) (hmax : s.opr.rootBits ≤ 30) (hlen : ∀ c ∈ s.opr.codes, c.len ≤ 32) :=
      initVlc_of_short (codes := s.opr.codes.map oprCode) hmin hmax (by simpa using hlen)
    refine ⟨fun hmin hmax hlen hfree => ?_, ?_⟩
    · exact exec_initvlc_ok ((hshort hmin hmax hlen).trans (if_pos hfree))
    · rintro e (⟨hroot, rfl⟩ | ⟨⟨hmin, hmax⟩, hlong, rfl⟩ | ⟨⟨hmin, hmax⟩, hlen, hfree, rfl⟩)
      · exact exec_initvlc_error (initVlc_tableBits hroot)
      · exact exec_initvlc_error (initVlc_tooLong hmin hmax (by simpa using hlong))
      · exact exec_initvlc_error ((hshort hmin hmax hlen).trans (if_neg (by simp [hfree])))

end Sys2Proof.Proofs.VlcFamily
end

section
/-! SUPPORT. DECHUFFDESC (41_vlc.md R178 to R180): a Huffman register under reads and writes, the states in which a
descriptor is read, and the descriptor bit by bit. -/

namespace Sys2Proof.Machine

open Sys2Proof.Claims

variable {s : State} {t k n m : Nat} {h h' : HuffTab}

/-! ### A Huffman register -/

/-- A register that exists holds what is written to it. -/
theorem State.setHuffReg_huffReg (hreg : s.huffReg? t = some h') : (s.setHuffReg t h).huffReg? t = some h := by
  unfold State.huffReg? State.setHuffReg at *
  split_ifs at * with hmb hblk hband
  · rfl
  · rfl
  · rw [State.updBand_bandOpt]
    cases hbd : s.band? ((t - 32) / 4) ((t - 32) % 4) with
    | none => rw [hbd] at hreg; cases hreg
    | some bd => rfl

theorem State.setHuffReg_setHuffReg (s : State) (t : Nat) (h h' : HuffTab) :
    (s.setHuffReg t h).setHuffReg t h' = s.setHuffReg t h' := by
  unfold State.setHuffReg
  split_ifs with hmb hblk hband
  · rfl
  · rfl
  · exact State.updBand_updBand ..
  · rfl

/-! A write of a register leaves the bitstream, the parameters and slot 48. -/

section

variable (s : State) (t : Nat) (h : HuffTab)

@[simp] theorem State.setHuffReg_params : (s.setHuffReg t h).params = s.params := by
  unfold State.setHuffReg
  split_ifs <;> rfl

@[simp] theorem State.setHuffReg_br : (s.setHuffReg t h).br = s.br := by
  unfold State.setHuffReg
  split_ifs <;> rfl

@[simp] theorem State.setHuffReg_slot48 : (s.setHuffReg t h).slot48 = s.slot48 := by
  unfold State.setHuffReg
  split_ifs <;> rfl

@[simp] theorem State.setHuffReg_draws : (s.setHuffReg t h).draws = s.draws := by
  unfold State.setHuffReg
  split_ifs <;> rfl

theorem State.setHuffReg_moved (n : Nat) : (s.setHuffReg t h).moved n = (s.moved n).setHuffReg t h := by
  unfold State.setHuffReg
  split_ifs <;> rfl

theorem State.withSlot48_setHuffReg (tbl : Option VlcTable) :
    { s.setHuffReg t h with slot48 := tbl } = State.setHuffReg { s with slot48 := tbl } t h := by
  unfold State.setHuffReg
  split_ifs <;> rfl

theorem State.setHuffReg_bsBit (i : Nat) : (s.setHuffReg t h).bsBit i = s.bsBit i := by
  simp [State.bsBit]

theorem State.setHuffReg_bitAhead (k : Nat) : (s.setHuffReg t h).bitAhead k = s.bitAhead k := by
  simp [State.bitAhead, State.setHuffReg_bsBit]

theorem State.setHuffReg_peek (n : Nat) : (s.setHuffReg t h).peek n = s.peek n := by
  simp [State.peek, State.bitsAhead, funext (s.setHuffReg_bitAhead t h)]

end

/-! ### Programs on a register -/

theorem getHuffReg_ok (hreg : s.huffReg? t = some h) : getHuffReg t s = .ok h s := by
  unfold getHuffReg
  rw [hreg]
  rfl

theorem updHuffReg_ok (hreg : s.huffReg? t = some h) (f : HuffTab → HuffTab) :
    updHuffReg t f s = .ok () (s.setHuffReg t (f h)) := by
  rw [updHuffReg, M.bind_ok (getHuffReg_ok hreg), update_apply]

/-- The engine `s` while a descriptor is read into register slot `t`: the register, and the cursor `k` bits on. -/
def State.onReg (s : State) (t : Nat) (h : HuffTab) (k : Nat) : State :=
  State.setHuffReg { s with br := atBit s (s.br.index + k) } t h

theorem State.onReg_slot48 (s : State) (t : Nat) (h : HuffTab) (k : Nat) : (s.onReg t h k).slot48 = s.slot48 :=
  State.setHuffReg_slot48 ..

/-- A move of the cursor leaves the registers. -/
theorem State.onReg_huffReg (hreg : s.huffReg? t = some h') : (s.onReg t h k).huffReg? t = some h :=
  State.setHuffReg_huffReg (s := { s with br := atBit s (s.br.index + k) }) hreg

theorem getHuffReg_onReg (hreg : s.huffReg? t = some h') : getHuffReg t (s.onReg t h k) = .ok h (s.onReg t h k) :=
  getHuffReg_ok (State.onReg_huffReg hreg)

theorem updHuffReg_onReg (hreg : s.huffReg? t = some h') (f : HuffTab → HuffTab) :
    updHuffReg t f (s.onReg t h k) = .ok () (s.onReg t (f h) k) := by
  rw [updHuffReg_ok (State.onReg_huffReg hreg), State.onReg, State.setHuffReg_setHuffReg, State.onReg]

theorem readBits_onReg (hb : s.bound = true) (hs : streamHas s m) (hn : 0 < n) (hk : k + n ≤ m) :
    readBits n (s.onReg t h k) = .ok (field s k n) (s.onReg t h (k + n)) := by
  have hbound : (s.onReg t h k).bound = true := by
    rw [State.bound, State.onReg, State.setHuffReg_br]
    exact hb
  have hstream : streamHas (s.onReg t h k) n := fun j hj => by
    rw [State.onReg, State.setHuffReg_bsBit, State.setHuffReg_br]
    exact streamHas_moved hs hk j hj
  have hpeek : (s.onReg t h k).peek n = field s k n := State.setHuffReg_peek ..
  have hmoved : (s.onReg t h k).moved n = s.onReg t h (k + n) := by
    rw [State.onReg, State.setHuffReg_moved, State.onReg, ← Nat.add_assoc]
    rfl
  rw [readBits_of_streamHas hbound hn hstream, hpeek, hmoved]

/-- Values of 4 bits, one after the other. -/
theorem readValues_onReg (hb : s.bound = true) (hs : streamHas s m) (hk : k + 4 * n ≤ m) :
    readValues 4 n (s.onReg t h k) =
      .ok ((List.range n).map fun i => field s (k + 4 * i) 4) (s.onReg t h (k + 4 * n)) := by
  induction n generalizing k with
  | zero => rfl
  | succ n ih =>
    rw [readValues, M.bind_ok (readBits_onReg hb hs (by decide) (by omega)), M.bind_ok (ih (by omega)), M.pure_apply]
    simp [List.range_succ_eq_map, Function.comp_def, Nat.mul_succ, Nat.add_assoc, Nat.add_comm 4]

/-! ### The descriptor -/

/-- The descriptor whose rows stand in the stream `k` bits after the cursor, with 0 in the rows past the last. -/
theorem readDesc_onReg {desc : HuffDesc} (hb : s.bound = true) (hs : streamHas s m) (hk : k + 4 * n ≤ m)
    (hrows : desc.numRows.val = n)
    (hbits : ∀ i : Fin 16, desc.xbits[i] = if i.val < n then BitVec.ofNat 4 (field s (k + 4 * i) 4) else 0) :
    readDesc n (s.onReg t h k) = .ok desc (s.onReg t h (k + 4 * n)) := by
  rw [readDesc, M.bind_ok (readValues_onReg hb hs hk), M.pure_apply]
  obtain ⟨numRows, xbits⟩ := desc
  congr 2
  · subst hrows
    exact Fin.cast_val_eq_self numRows
  · refine Vector.ext fun i hi => ?_
    have hbit := hbits ⟨i, hi⟩
    by_cases hin : i < n
    · simpa [hin] using hbit.symm
    · simpa [hin] using hbit.symm

/-- HUFFBUILD of a descriptor read into a register. -/
theorem huffBuild48_onReg {desc : HuffDesc} {tbl : VlcTable} (hbuild : huffBuild s.params desc = .ok tbl) :
    huffBuild48 desc (s.onReg t h k) = .ok () (State.onReg { s with slot48 := some tbl } t h k) := by
  have hparams : (s.onReg t h k).params = s.params := State.setHuffReg_params ..
  rw [huffBuild48, hparams, buildInto48_ok hbuild, State.onReg, State.withSlot48_setHuffReg]
  rfl

theorem onError_ok {α : Type} {f : M α} {repair : State → State} {s s' : State} {a : α} (hf : f s = .ok a s') :
    onError f repair s = .ok a s' := by
  rw [onError, hf]

/-! ### The custom branch (R178) -/

theorem decodeCustom_empty (hb : s.bound = true) (hs : streamHas s (k + 4)) (hrows : field s k 4 = 0) :
    decodeCustom t (s.onReg t h k) = .error .huffEmpty (s.onReg t h (k + 4)) := by
  rw [decodeCustom, M.bind_ok (readBits_onReg hb hs (by decide) le_rfl), hrows]
  rfl

/-- A descriptor of 1 to 15 rows: one that equals the built one selects it, any other is built into slot 48 and into the
register. -/
theorem decodeCustom_rows {desc : HuffDesc} (hreg : s.huffReg? t = some h') (hb : s.bound = true)
    (hs : streamHas s (k + 4 + 4 * n)) (hcount : field s k 4 = n) (hn : n ≠ 0) (hrows : desc.numRows.val = n)
    (hbits : ∀ i : Fin 16, desc.xbits[i] = if i.val < n then BitVec.ofNat 4 (field s (k + 4 + 4 * i) 4) else 0) :
    (∀ tbl, (descSame desc h.custDesc && h.custTab.isSome) = false → huffBuild s.params desc = .ok tbl →
      decodeCustom t (s.onReg t h k) = .ok () (State.onReg { s with slot48 := some tbl } t
        { h with tab := .custom, custDesc := desc, custTab := some tbl } (k + 4 + 4 * n))) ∧
    ((descSame desc h.custDesc && h.custTab.isSome) = true →
      decodeCustom t (s.onReg t h k) = .ok () (s.onReg t { h with tab := .custom } (k + 4 + 4 * n))) := by
  rw [decodeCustom, M.bind_ok (readBits_onReg hb hs (by decide) (Nat.le_add_right _ _)), hcount, decide_eq_false hn,
    M.bind_ok (raiseIf_false _ _), M.bind_ok (readDesc_onReg hb hs le_rfl hrows hbits), M.bind_ok (getHuffReg_onReg hreg)]
  refine ⟨fun tbl hsame hbuild => ?_, fun hsame => ?_⟩
  · have hreg' : State.huffReg? { s with slot48 := some tbl } t = some h' := hreg
    rw [hsame, if_neg Bool.false_ne_true]
    refine (M.bind_ok (a := ()) (s' := State.onReg { s with slot48 := some tbl } t
      { h with custDesc := desc, custTab := some tbl } (k + 4 + 4 * n)) ?_).trans (updHuffReg_onReg hreg' _)
    rw [M.bind_ok (updHuffReg_onReg hreg _), M.bind_ok (onError_ok (huffBuild48_onReg hbuild)), M.bind_ok (look_apply _ _),
      State.onReg_slot48]
    exact updHuffReg_onReg hreg' _
  · rw [if_pos hsame, M.bind_ok (done_apply _), updHuffReg_onReg hreg]

/-! ### The selector (R178) -/

/-- The 3 bits of the selector are read into the register; 7 selects a custom table, any other value a predefined one. -/
theorem decodeHuffDesc_coded {kind : VlcKind} {sel : BitVec 3} (hreg : s.huffReg? t = some h) (hb : s.bound = true)
    (hin : within s (s.br.index + 3)) (hpeek : s.peek 3 = sel.toNat) :
    decodeHuffDesc t kind true s =
      (if sel = 7 then decodeCustom t else updHuffReg t fun h => { h with tab := .predef kind sel.toFin })
        ((s.looked 3).onReg t { h with tabSel := sel } 3) := by
  have hread : readField 3 s = .ok sel ((s.looked 3).moved 3) := by
    rw [readField, M.bind_ok (readBits_ok hb (State.avail_iff.mpr hin)), hpeek, BitVec.ofNat_toNat, BitVec.setWidth_eq]
    rfl
  have hmoved : ((s.looked 3).moved 3).huffReg? t = some h := hreg
  rw [decodeHuffDesc, if_pos rfl, M.bind_ok hread, M.bind_ok (updHuffReg_ok hmoved _)]
  rfl

theorem decodeHuffDesc_reuse {kind : VlcKind} (hreuse : s.params.huffNotCoded = .reuse) :
    decodeHuffDesc t kind false s = .ok () s := by
  rw [decodeHuffDesc, if_neg Bool.false_ne_true, M.bind_ok (look_apply _ _), hreuse]
  rfl

theorem decodeHuffDesc_default7 {kind : VlcKind} (hreg : s.huffReg? t = some h)
    (hdefault : s.params.huffNotCoded = .default7) :
    decodeHuffDesc t kind false s = .ok () (s.setHuffReg t { h with tab := .predef kind 7 }) := by
  rw [decodeHuffDesc, if_neg Bool.false_ne_true, M.bind_ok (look_apply _ _), hdefault]
  exact updHuffReg_ok hreg _

/-! ### The command -/

/-- The head check of a register that exists, with a bitstream where a descriptor is coded. -/
theorem checkHuffDesc_ok {coded : Bool} (hreg : s.huffReg? t = some h) (hb : coded = true → s.bound = true) :
    checkHuffDesc t coded s = none := by
  refine orBadState_eq_none.mpr ?_
  rw [hreg]
  cases coded with
  | false => rfl
  | true => exact hb rfl

section Command

variable {slot : BitVec 6} {w : BitVec 1} {s' : State}

theorem exec_dechuffdesc_coded_ok (hslot : legalHuffSlot slot = true) (hreg : s.huffReg? slot.toNat = some h)
    (hb : s.bound = true) (hbody : decodeHuffDesc slot.toNat (kindOfW w) true s = .ok () s') :
    exec (.dechuffdesc slot w 1) s = .next s'.complete :=
  command_ok (i := .dechuffdesc slot w 1) hslot (checkHuffDesc_ok hreg fun _ => hb) hbody

theorem exec_dechuffdesc_coded_raises {e : ErrKind} (hslot : legalHuffSlot slot = true)
    (hreg : s.huffReg? slot.toNat = some h) (hb : s.bound = true)
    (hbody : decodeHuffDesc slot.toNat (kindOfW w) true s = .error e s') :
    exec (.dechuffdesc slot w 1) s = .next (s'.raised e) :=
  command_raises (i := .dechuffdesc slot w 1) hslot (checkHuffDesc_ok hreg fun _ => hb) hbody

theorem exec_dechuffdesc_uncoded_ok (hslot : legalHuffSlot slot = true) (hreg : s.huffReg? slot.toNat = some h)
    (hbody : decodeHuffDesc slot.toNat (kindOfW w) false s = .ok () s') :
    exec (.dechuffdesc slot w 0) s = .next s'.complete :=
  command_ok (i := .dechuffdesc slot w 0) hslot (checkHuffDesc_ok hreg fun hcoded => absurd hcoded (by decide)) hbody

end Command

end Sys2Proof.Machine

namespace Sys2Proof.Proofs.VlcFamily

open Sys2Proof.Machine Sys2Proof.Claims

/-- Settles O19: the selector and the policy for an uncoded descriptor each lead to one write of the register. -/
theorem huffDescSelects : Obligations.HuffDescSelects := by
  intro t w s h hslot hreg
  refine ⟨fun hreuse => ?_, fun hdefault => ?_, fun sel hb hin hpeek hsel => ?_⟩
  · exact exec_dechuffdesc_uncoded_ok hslot hreg (decodeHuffDesc_reuse hreuse)
  · exact exec_dechuffdesc_uncoded_ok hslot hreg (decodeHuffDesc_default7 hreg hdefault)
  · have hread := decodeHuffDesc_coded (kind := kindOfW w) hreg hb hin hpeek
    have hlooked : (s.looked 3).huffReg? t.toNat = some h := hreg
    rw [if_neg hsel, updHuffReg_onReg hlooked] at hread
    exact exec_dechuffdesc_coded_ok hslot hreg hb hread

/-- Settles O20: the selector 7 leads to the custom branch, which runs on the register and the cursor alone. -/
theorem huffDescCustom : Obligations.HuffDescCustom := by
  intro t w s h n desc hslot hreg hb hs hpeek hcount
  have hs3 : streamHas s 3 := fun k hk => hs k (by omega)
  have hin : within s (s.br.index + 3) := State.avail_iff.mp (State.avail_of_streamHas (by decide) hs3)
  have hread := decodeHuffDesc_coded (kind := kindOfW w) (sel := 7) hreg hb hin hpeek
  rw [if_pos rfl, State.looked_of_streamHas hs3] at hread
  refine ⟨fun hn => ?_, fun hn hrows hbits => ?_⟩
  · subst hn
    exact exec_dechuffdesc_coded_raises hslot hreg hb (hread.trans (decodeCustom_empty hb hs hcount))
  · have hnat : n.val ≠ 0 := fun h0 => hn (Fin.ext h0)
    obtain ⟨hbuilt, hreused⟩ :=
      decodeCustom_rows (k := 3) (h := { h with tabSel := 7 }) hreg hb hs hcount hnat hrows hbits
    exact ⟨fun tbl hsame hbuild => exec_dechuffdesc_coded_ok hslot hreg hb (hread.trans (hbuilt tbl hsame hbuild)),
      fun hsame => exec_dechuffdesc_coded_ok hslot hreg hb (hread.trans (hreused hsame))⟩

end Sys2Proof.Proofs.VlcFamily
end

section
/-! SUPPORT. The transform commands as one command (42_transforms.md R200, R230): the head check by cases, and what the
samples are after a kernel's output was written. -/

namespace Sys2Proof.Machine

open Sys2Proof.Claims

variable {s : State} {i : Instr} {d : Dst} {pitch n : Nat} {o : KernelOut} {f : Nat → Nat → T32}

/-! ### The head check -/

theorem blockFits_iff {off : Int} {bufsize : Nat} :
    blockFits off pitch n bufsize = true ↔ 0 ≤ off ∧ off + ((n : Int) - 1) * pitch + n ≤ bufsize := decide_eq_true_iff

theorem checkBlockWrite_ok (htarget : hasTarget s d.p d.b d.k = true)
    (hfits : blockFits d.off pitch n (s.bandSize d.p d.b) = true) : checkBlockWrite d pitch n s = none := by
  simp [checkBlockWrite, firstError, htarget, hfits]

theorem checkBlockWrite_outside (htarget : hasTarget s d.p d.b d.k = true)
    (hfits : ¬blockFits d.off pitch n (s.bandSize d.p d.b) = true) :
    checkBlockWrite d pitch n s = some .blockOob := by
  simp [checkBlockWrite, firstError, htarget, hfits]

theorem checkBlockWrite_noTarget (htarget : hasTarget s d.p d.b d.k = false) :
    checkBlockWrite d pitch n s = some .badState := by
  simp [checkBlockWrite, firstError, htarget]

/-! ### The commands -/

/-- A command that checks its block and writes a kernel's output there. -/
def WritesKernel (i : Instr) (s : State) (n : Nat) (o : KernelOut) : Prop :=
  i.wellFormed = true ∧ exec i s = command i (checkBlockWrite s.opr.dst s.opr.pitch n)
    (update fun u => u.writeBlock s.opr.dst s.opr.pitch n o) s

/-- Two commands that write the same output are the same command. -/
theorem WritesKernel.exec_eq {j : Instr} (hi : WritesKernel i s n o) (hj : WritesKernel j s n o) :
    exec i s = exec j s := by
  obtain ⟨hiwf, hi⟩ := hi
  obtain ⟨hjwf, hj⟩ := hj
  rw [hi, hj, command, command, runCommand, runCommand, hiwf, hjwf]

theorem WritesKernel.exec_ok (h : WritesKernel i s n o)
    (htarget : hasTarget s s.opr.dst.p s.opr.dst.b s.opr.dst.k = true)
    (hfits : blockFits s.opr.dst.off s.opr.pitch n (s.bandSize s.opr.dst.p s.opr.dst.b) = true) :
    exec i s = .next (s.writeBlock s.opr.dst s.opr.pitch n o).complete :=
  h.2.trans (command_ok h.1 (checkBlockWrite_ok htarget hfits) rfl)

theorem WritesKernel.exec_outside (h : WritesKernel i s n o)
    (htarget : hasTarget s s.opr.dst.p s.opr.dst.b s.opr.dst.k = true)
    (hfits : ¬blockFits s.opr.dst.off s.opr.pitch n (s.bandSize s.opr.dst.p s.opr.dst.b) = true) :
    exec i s = .next (s.raised .blockOob) :=
  h.2.trans (command_headError h.1 (checkBlockWrite_outside htarget hfits))

theorem WritesKernel.exec_noTarget (h : WritesKernel i s n o)
    (htarget : hasTarget s s.opr.dst.p s.opr.dst.b s.opr.dst.k = false) :
    exec i s = .next (s.refuse .badState) :=
  h.2.trans (command_headError h.1 (checkBlockWrite_noTarget htarget))

theorem writesKernel_invTx (s : State) {e : Instr × InvTx} (he : e ∈ invTxOf) :
    WritesKernel e.1 s e.2.size (invKernel s.params.kernels e.2 s.opr.coefs s.opr.flags) := by
  fin_cases he <;> exact ⟨rfl, rfl⟩

theorem writesKernel_dcTx (s : State) {e : Instr × DcTx} (he : e ∈ dcTxOf) :
    WritesKernel e.1 s e.2.size (dcKernel e.2 s.opr.dc) := by
  fin_cases he <;> exact ⟨rfl, rfl⟩

/-! ### A kernel's output as a block -/

/-- The output names each sample of the `n * n` block once, and gives it the value `f`. -/
structure IsBlock (n : Nat) (f : Nat → Nat → T32) (o : KernelOut) : Prop where
  nodup : (o.map fun e => (e.1, e.2.1)).Nodup
  mem_iff : ∀ r c v, (r, c, v) ∈ o ↔ r < n ∧ c < n ∧ v = f r c

theorem IsBlock.mem (h : IsBlock n f o) {r c : Nat} (hr : r < n) (hc : c < n) : (r, c, f r c) ∈ o :=
  (h.mem_iff r c _).mpr ⟨hr, hc, rfl⟩

theorem IsBlock.kernelOk_iff (h : IsBlock n f o) :
    kernelOk o = true ↔ ∀ r c, r < n → c < n → (f r c).ok = true := by
  refine List.all_eq_true.trans ⟨fun hok r c hr hc => hok _ (h.mem hr hc), fun hok e he => ?_⟩
  obtain ⟨hr, hc, hv⟩ := (h.mem_iff e.1 e.2.1 e.2.2).mp he
  exact hv ▸ hok _ _ hr hc

/-- A change of the values alone. -/
theorem IsBlock.map (h : IsBlock n f o) (g : Nat → Nat → T32) :
    IsBlock n g (o.map fun e => (e.1, e.2.1, g e.1 e.2.1)) := by
  refine ⟨by simpa only [List.map_map, Function.comp_def] using h.nodup, fun r c v => ?_⟩
  simp only [List.mem_map, Prod.mk.injEq]
  constructor
  · rintro ⟨e, he, rfl, rfl, rfl⟩
    obtain ⟨hr, hc, -⟩ := (h.mem_iff e.1 e.2.1 e.2.2).mp he
    exact ⟨hr, hc, rfl⟩
  · rintro ⟨hr, hc, rfl⟩
    exact ⟨_, h.mem hr hc, rfl, rfl, rfl⟩

theorem isBlock_byRows (n : Nat) (rows : List (List T32)) : IsBlock n (at2 rows) (byRows n rows) := by
  refine ⟨?_, fun r c v => ?_⟩
  · simp only [byRows, List.map_flatMap, List.map_map, Function.comp_def]
    exact List.nodup_range.product List.nodup_range
  · simp only [byRows, List.mem_flatMap, List.mem_map, List.mem_range, Prod.mk.injEq]
    constructor
    · rintro ⟨r, hr, c, hc, rfl, rfl, rfl⟩
      exact ⟨hr, hc, rfl⟩
    · rintro ⟨hr, hc, rfl⟩
      exact ⟨r, hr, c, hc, rfl, rfl, rfl⟩

theorem isBlock_byColumns (n : Nat) (cols : List (List T32)) :
    IsBlock n (fun r c => at2 cols c r) (byColumns n cols) := by
  refine ⟨?_, fun r c v => ?_⟩
  · have hswap : (byColumns n cols).map (fun e => (e.1, e.2.1)) = (List.range n ×ˢ List.range n).map Prod.swap := by
      simp only [byColumns, List.product, SProd.sprod, List.map_flatMap, List.map_map, Function.comp_def, Prod.swap]
    rw [hswap]
    exact (List.nodup_range.product List.nodup_range).map Prod.swap_injective
  · simp only [byColumns, List.mem_flatMap, List.mem_map, List.mem_range, Prod.mk.injEq]
    constructor
    · rintro ⟨c, hc, r, hr, rfl, rfl, rfl⟩
      exact ⟨hr, hc, rfl⟩
    · rintro ⟨hr, hc, rfl⟩
      exact ⟨c, hc, r, hr, rfl, rfl, rfl⟩

/-! ### Writing a block -/

/-- Rows of at least `n` samples keep the samples of a block apart. -/
theorem blockAddr_inj {off : Int} {r c r' c' : Nat} (hoff : 0 ≤ off) (hc : c < pitch) (hc' : c' < pitch)
    (h : blockAddr off pitch r c = blockAddr off pitch r' c') : r = r' ∧ c = c' := by
  obtain ⟨k, rfl⟩ := Int.eq_ofNat_of_zero_le hoff
  have haddr : pitch * r + c = pitch * r' + c' := by
    have hk : ∀ r c : Nat, blockAddr k pitch r c = k + (pitch * r + c) := fun r c => by
      rw [blockAddr, Nat.mul_comm, ← Nat.add_assoc]
      exact Int.toNat_natCast _
    rw [hk, hk] at h
    exact Nat.add_left_cancel h
  have hcol : c = c' := by
    have hmod := congrArg (· % pitch) haddr
    simpa [Nat.mul_add_mod, Nat.mod_eq_of_lt hc, Nat.mod_eq_of_lt hc'] using hmod
  subst hcol
  exact ⟨Nat.eq_of_mul_eq_mul_left (by omega) (Nat.add_right_cancel haddr), rfl⟩

/-- Draws or not, the stores go to the positions the kernel names. -/
theorem kernelStores_addr (off : Int) (pitch n draws : Nat) (o : KernelOut) :
    (kernelStores off pitch n draws o).map Prod.fst = o.map fun e => blockAddr off pitch e.1 e.2.1 := by
  unfold kernelStores blockStores drawnStores
  split_ifs <;> rw [List.map_map] <;> rfl

theorem IsBlock.nodup_addr {off : Int} (h : IsBlock n f o) (hoff : 0 ≤ off) (hpitch : n ≤ pitch) :
    (o.map fun e => blockAddr off pitch e.1 e.2.1).Nodup := by
  have hcomp : (o.map fun e => blockAddr off pitch e.1 e.2.1)
      = (o.map fun e => (e.1, e.2.1)).map fun p => blockAddr off pitch p.1 p.2 := by
    rw [List.map_map]
    rfl
  have hcol : ∀ p ∈ o.map (fun e => (e.1, e.2.1)), p.2 < pitch := by
    rintro _ hp
    obtain ⟨e, he, rfl⟩ := List.mem_map.mp hp
    exact ((h.mem_iff e.1 e.2.1 e.2.2).mp he).2.1.trans_le hpitch
  rw [hcomp]
  exact h.nodup.map_on fun p hp q hq heq => Prod.ext_iff.mpr (blockAddr_inj hoff (hcol p hp) (hcol q hq) heq)

/-- What each sample is after a kernel's output was written. -/
theorem State.sample_writeBlock (s : State) (d : Dst) (pitch n : Nat) (o : KernelOut) (p b k a : Nat) :
    (s.writeBlock d pitch n o).sample p b k a =
      if (p = d.p ∧ b = d.b ∧ k = d.k) ∧ s.hasBuffer d.p d.b d.k = true then
        bufRead (storeSamples (s.bufferOf d.p d.b d.k) (kernelStores d.off pitch n s.draws o)) a
      else s.sample p b k a :=
  s.sample_setBuffer d.p d.b d.k p b k a _

/-- A kernel that stayed in 32 bits leaves its values in its block, each in 16 bits (R200). -/
theorem IsBlock.sample_writeBlock (h : IsBlock n f o) (hmem : s.MemoryOk) (hbuf : s.hasBuffer d.p d.b d.k = true)
    (hoff : 0 ≤ d.off) (hpitch : n ≤ pitch) (hok : kernelOk o = true) {r c : Nat} (hr : r < n) (hc : c < n) :
    (s.writeBlock d pitch n o).sample d.p d.b d.k (blockAddr d.off pitch r c) = wrap16 (f r c).val := by
  have hstore : (blockAddr d.off pitch r c, (f r c).val) ∈ kernelStores d.off pitch n s.draws o := by
    rw [kernelStores, if_pos hok]
    exact List.mem_map.mpr ⟨_, h.mem hr hc, rfl⟩
  have hnodup : ((kernelStores d.off pitch n s.draws o).map Prod.fst).Nodup := by
    rw [kernelStores_addr]
    exact h.nodup_addr hoff hpitch
  rw [State.sample_writeBlock, if_pos ⟨⟨rfl, rfl, rfl⟩, hbuf⟩]
  exact bufRead_storeSamples_mem (State.bufWf_bufferOf hmem _ _ _) hnodup hstore

/-- Every sample outside the block stays, in 32 bits or not. -/
theorem IsBlock.onlyBlock_writeBlock (h : IsBlock n f o) (hmem : s.MemoryOk) :
    onlyBlock s (s.writeBlock d pitch n o) d.p d.b d.k d.off pitch n := by
  intro p b k a hout
  rw [State.sample_writeBlock]
  split_ifs with hbuf
  · obtain ⟨⟨rfl, rfl, rfl⟩, -⟩ := hbuf
    refine bufRead_storeSamples_other (State.bufWf_bufferOf hmem _ _ _) fun e he haddr => hout ⟨⟨rfl, rfl, rfl⟩, ?_⟩
    have hmap := List.mem_map_of_mem (f := Prod.fst) he
    rw [kernelStores_addr] at hmap
    obtain ⟨x, hx, heq⟩ := List.mem_map.mp hmap
    obtain ⟨hr, hc, -⟩ := (h.mem_iff x.1 x.2.1 x.2.2).mp hx
    exact ⟨x.1, x.2.1, hr, hc, (heq.trans haddr).symm⟩
  · rfl

end Sys2Proof.Machine

namespace Sys2Proof.Proofs.TransformFamily

open Sys2Proof.Machine Sys2Proof.Claims

/-- Settles O21: an INVTX or a DCTX command checks its block, then writes its kernel's output there. -/
theorem transformWindow : Obligations.TransformWindow := by
  intro s i n htx
  have hwrites : ∃ o, WritesKernel i s n o := by
    rcases htx with ⟨tx, he, rfl⟩ | ⟨tx, he, rfl⟩
    · exact ⟨_, writesKernel_invTx s he⟩
    · exact ⟨_, writesKernel_dcTx s he⟩
  obtain ⟨o, hw⟩ := hwrites
  exact ⟨fun htarget hfits => ⟨_, hw.exec_ok htarget (blockFits_iff.mpr hfits), rfl⟩,
    fun htarget hfits => hw.exec_outside htarget (mt blockFits_iff.mp hfits), hw.exec_noTarget⟩

end Sys2Proof.Proofs.TransformFamily
end

section
/-! SUPPORT. The butterflies on a line of values (42_transforms.md R202, R203): what each gives, and how far its
intermediates grow (R204). -/

namespace Sys2Proof.Machine

open Sys2Proof.Claims

/-! ### Single operations -/

@[simp] theorem tc_val (k : Int) : (tc k).val = k := rfl

/-- The value is at most `m` in size, and the arithmetic that led to it stayed in 32 bits. -/
structure T32.Within (m : Int) (a : T32) : Prop where
  ok : a.ok = true
  lower : -m ≤ a.val
  upper : a.val ≤ m

section

variable {a b : T32} {m k : Int} {n : Nat}

theorem T32.Within.mono (h : a.Within m) (hmk : m ≤ k) : a.Within k :=
  ⟨h.ok, (neg_le_neg hmk).trans h.lower, h.upper.trans hmk⟩

theorem within_tc (h : -m ≤ k ∧ k ≤ m) : (tc k).Within m := ⟨rfl, h.1, h.2⟩

/-- An operation on arguments in range, whose result is at most `m` in size. -/
theorem within_tres {ok : Bool} (hok : ok = true) (h : -m ≤ k ∧ k ≤ m) (hm : m < 2 ^ 31) :
    (tres k ok).Within m := by
  refine ⟨?_, h.1, h.2⟩
  simp only [tres, hok, fits32, Bool.true_and, decide_eq_true_eq]
  omega

theorem within_tadd (ha : a.Within m) (hb : b.Within k) (hmk : m + k < 2 ^ 31) : (tadd a b).Within (m + k) := by
  obtain ⟨haok, hal, hau⟩ := ha
  obtain ⟨hbok, hbl, hbu⟩ := hb
  exact within_tres (by simp [haok, hbok]) (by omega) hmk

theorem within_tsub (ha : a.Within m) (hb : b.Within k) (hmk : m + k < 2 ^ 31) : (tsub a b).Within (m + k) := by
  obtain ⟨haok, hal, hau⟩ := ha
  obtain ⟨hbok, hbl, hbu⟩ := hb
  exact within_tres (by simp [haok, hbok]) (by omega) hmk

theorem within_tmul {w : Int} (ha : a.Within m) (hw : |k| = w) (hm : w * m < 2 ^ 31) : (tmul k a).Within (w * m) := by
  obtain ⟨haok, hal, hau⟩ := ha
  refine within_tres haok (abs_le.mp ?_) hm
  rw [abs_mul, ← hw]
  exact mul_le_mul_of_nonneg_left (abs_le.mpr ⟨hal, hau⟩) (abs_nonneg k)

theorem within_tshr (ha : a.Within (2 ^ n * m)) (hm : m < 2 ^ 31) : (tshr a n).Within m := by
  obtain ⟨haok, hal, hau⟩ := ha
  have hpos : (0 : Int) < 2 ^ n := by positivity
  refine within_tres haok ⟨?_, ?_⟩ hm
  · rw [asr, Int.le_ediv_iff_mul_le hpos]
    linarith
  · refine (Int.ediv_le_ediv hpos hau).trans_eq ?_
    exact Int.mul_ediv_cancel_left m hpos.ne'

/-- `HBF` grows nothing. -/
theorem within_hbf (ha : a.Within m) (hb : b.Within m) (hm : 2 * m < 2 ^ 31) :
    (hbf a b).1.Within m ∧ (hbf a b).2.Within m :=
  ⟨within_tshr ((within_tadd ha hb (by omega)).mono (by omega)) (by omega),
   within_tshr ((within_tsub ha hb (by omega)).mono (by omega)) (by omega)⟩

theorem within_sbf (ha : a.Within m) (hb : b.Within k) (hmk : m + k < 2 ^ 31) :
    (sbf a b).1.Within (m + k) ∧ (sbf a b).2.Within (m + k) := ⟨within_tadd ha hb hmk, within_tsub ha hb hmk⟩

theorem within_irefl (ha : a.Within m) (hb : b.Within m) (h1 : 1 ≤ m) (hm : 5 * m < 2 ^ 31) :
    (irefl a b).1.Within (3 * m) ∧ (irefl a b).2.Within (3 * m) := by
  have two : (tc 2).Within (2 * m) := within_tc (by omega)
  have twice {x : T32} (hx : x.Within m) : (tmul 2 x).Within (2 * m) := within_tmul hx rfl (by omega)
  have hup := within_tadd (within_tadd hb (twice ha) (by omega)) two (by omega)
  have hdown := within_tadd (within_tsub ha (twice hb) (by omega)) two (by omega)
  have quarter {x : T32} (hx : x.Within (m + 2 * m + 2 * m)) : (tshr x 2).Within (2 * m) :=
    within_tshr (hx.mono (by norm_num; omega)) (by omega)
  exact ⟨(within_tadd (quarter hup) ha (by omega)).mono (by omega),
    (within_tsub (quarter hdown) hb (by omega)).mono (by omega)⟩

theorem within_part4 (ha : a.Within m) (hb : b.Within m) (h1 : 1 ≤ m) (hm : 9 * m < 2 ^ 31) :
    (part4 a b).1.Within (3 * m) ∧ (part4 a b).2.Within (3 * m) := by
  have four : (tc 4).Within (4 * m) := within_tc (by omega)
  have times4 {x : T32} (hx : x.Within m) : (tmul 4 x).Within (4 * m) := within_tmul hx rfl (by omega)
  have hneg : (tmul (-1) a).Within m := (within_tmul (w := 1) ha rfl (by omega)).mono (by omega)
  have hp := within_tadd (within_tsub (times4 ha) hb (by omega)) four (by omega)
  have hq := within_tadd (within_tsub hneg (times4 hb) (by omega)) four (by omega)
  have eighth {v : T32} {w : Int} (hv : v.Within w) (hw : w ≤ 9 * m) : (tshr v 3).Within (2 * m) :=
    within_tshr (hv.mono (by omega)) (by omega)
  exact ⟨(within_tadd hb (eighth hp (by omega)) (by omega)).mono (by omega),
    (within_tadd ha (eighth hq (by omega)) (by omega)).mono (by omega)⟩

theorem within_rnd (ha : a.Within m) (h1 : 1 ≤ m) (hm : m + 1 < 2 ^ 31) : (rnd a).Within m :=
  within_tshr ((within_tadd ha (within_tc (m := 1) (by decide)) hm).mono (by omega)) (by omega)

end

/-! ### Lines -/

/-- `tr` takes a line of `n` values to the line that `line` says. With values of at most `m` its own are at most
`18 * m` in size, and nothing leaves 32 bits for `m` up to 2^26. -/
structure Computes (n : Nat) (tr : List T32 → List T32) (line : (Nat → Int) → Nat → Int) : Prop where
  value : ∀ {x : Nat → T32} {y : Nat → Int}, (∀ j, j < n → (x j).val = y j) →
    (tr ((List.range n).map x)).map T32.val = (List.range n).map (line y)
  map_zeros : tr (zeros n) = zeros n
  within : ∀ {x : Nat → T32} {m : Int}, (∀ j, j < n → (x j).Within m) → 1 ≤ m → m ≤ 2 ^ 26 →
    ∀ v ∈ tr ((List.range n).map x), v.Within (18 * m)

theorem range4_map {α : Type} (x : Nat → α) : (List.range 4).map x = [x 0, x 1, x 2, x 3] := rfl

theorem range8_map {α : Type} (x : Nat → α) :
    (List.range 8).map x = [x 0, x 1, x 2, x 3, x 4, x 5, x 6, x 7] := rfl

/-- R202's line of 4. -/
theorem haarLine_four (y : Nat → Int) : (List.range 4).map (haarLine 4 y) =
    let a := (y 0 + y 1) / 2
    let b := (y 0 - y 1) / 2
    [(a + y 2) / 2, (a - y 2) / 2, (b + y 3) / 2, (b - y 3) / 2] := rfl

/-- R202's line of 8. -/
theorem haarLine_eight (y : Nat → Int) : (List.range 8).map (haarLine 8 y) =
    let a := (y 0 + y 1 + y 2) / 2
    let b := (y 0 + y 1 - y 2) / 2
    let c := (y 0 - y 1 + y 3) / 2
    let d := (y 0 - y 1 - y 3) / 2
    [(a + y 4) / 2, (a - y 4) / 2, (b + y 5) / 2, (b - y 5) / 2,
     (c + y 6) / 2, (c - y 6) / 2, (d + y 7) / 2, (d - y 7) / 2] := rfl

theorem computes_ihaar4 : Computes 4 ihaar4 (haarLine 4) where
  value := fun {x y} h => by
    simp only [haarLine_four, ← h 0 (by decide), ← h 1 (by decide), ← h 2 (by decide), ← h 3 (by decide)]
    rfl
  map_zeros := by decide
  within := fun {x m} h h1 hm => by
    obtain ⟨ha, hb⟩ := within_hbf (h 0 (by decide)) (h 1 (by decide)) (by omega)
    obtain ⟨hd1, hd2⟩ := within_hbf ha (h 2 (by decide)) (by omega)
    obtain ⟨hd3, hd4⟩ := within_hbf hb (h 3 (by decide)) (by omega)
    have hall : ∀ v ∈ ihaar4 ((List.range 4).map x), v.Within m := by
      simp only [range4_map, ihaar4, List.forall_mem_cons]
      exact ⟨hd1, hd2, hd3, hd4, fun _ h => absurd h List.not_mem_nil⟩
    exact fun v hv => (hall v hv).mono (by omega)

theorem computes_ihaar8 : Computes 8 ihaar8 (haarLine 8) where
  value := fun {x y} h => by
    have hadd : y 0 + y 1 = (2 * y 0 + 2 * y 1) / 2 := by omega
    have hsub : y 0 - y 1 = (2 * y 0 - 2 * y 1) / 2 := by omega
    rw [haarLine_eight, hadd, hsub]
    simp only [← h 0 (by decide), ← h 1 (by decide), ← h 2 (by decide),
      ← h 3 (by decide), ← h 4 (by decide), ← h 5 (by decide), ← h 6 (by decide), ← h 7 (by decide)]
    rfl
  map_zeros := by decide
  within := fun {x m} h h1 hm => by
    have twice {v : T32} (hv : v.Within m) : (tmul 2 v).Within (2 * m) := within_tmul hv rfl (by omega)
    have wide (j : Nat) (hj : j < 8) : (x j).Within (2 * m) := (h j hj).mono (by omega)
    have hbfw {v w : T32} (hv : v.Within (2 * m)) (hw : w.Within (2 * m)) := within_hbf hv hw (by omega)
    obtain ⟨ha, hb⟩ := hbfw (twice (h 0 (by decide))) (twice (h 1 (by decide)))
    obtain ⟨ha1, ha2⟩ := hbfw ha (wide 2 (by decide))
    obtain ⟨hb1, hb2⟩ := hbfw hb (wide 3 (by decide))
    obtain ⟨hd1, hd2⟩ := hbfw ha1 (wide 4 (by decide))
    obtain ⟨hd3, hd4⟩ := hbfw ha2 (wide 5 (by decide))
    obtain ⟨hd5, hd6⟩ := hbfw hb1 (wide 6 (by decide))
    obtain ⟨hd7, hd8⟩ := hbfw hb2 (wide 7 (by decide))
    have hall : ∀ v ∈ ihaar8 ((List.range 8).map x), v.Within (2 * m) := by
      simp only [range8_map, ihaar8, List.forall_mem_cons]
      exact ⟨hd1, hd2, hd3, hd4, hd5, hd6, hd7, hd8, fun _ h => absurd h List.not_mem_nil⟩
    exact fun v hv => (hall v hv).mono (by omega)

/-- R203's line of 4. -/
theorem slantLine_four (y : Nat → Int) : (List.range 4).map (slantLine 4 y) =
    let up := (y 3 + 2 * y 1 + 2) / 4 + y 1
    let down := (y 1 - 2 * y 3 + 2) / 4 - y 3
    [y 0 + y 2 + up, y 0 - y 2 + down, y 0 - y 2 - down, y 0 + y 2 - up] := rfl

/-- R203's line of 8. -/
theorem slantLine_eight (y : Nat → Int) : (List.range 8).map (slantLine 8 y) =
    let p := y 3 + (4 * y 1 - y 3 + 4) / 8
    let q := y 1 + (-y 1 - 4 * y 3 + 4) / 8
    let up := fun (a b : Int) => (b + 2 * a + 2) / 4 + a
    let down := fun (a b : Int) => (a - 2 * b + 2) / 4 - b
    [y 0 + q + (y 4 + y 5) + up (p + y 2) (y 7 - y 6), y 0 + q - (y 4 + y 5) + down (p + y 2) (y 7 - y 6),
     y 0 + q - (y 4 + y 5) - down (p + y 2) (y 7 - y 6), y 0 + q + (y 4 + y 5) - up (p + y 2) (y 7 - y 6),
     y 0 - q + (y 4 - y 5) + up (p - y 2) (y 7 + y 6), y 0 - q - (y 4 - y 5) + down (p - y 2) (y 7 + y 6),
     y 0 - q - (y 4 - y 5) - down (p - y 2) (y 7 + y 6), y 0 - q + (y 4 - y 5) - up (p - y 2) (y 7 + y 6)] := rfl

theorem computes_islant4 : Computes 4 islant4 (slantLine 4) where
  value := fun {x y} h => by
    simp only [slantLine_four, ← h 0 (by decide), ← h 1 (by decide), ← h 2 (by decide), ← h 3 (by decide)]
    rfl
  map_zeros := by decide
  within := fun {x m} h h1 hm => by
    obtain ⟨ha, hb⟩ := within_sbf (h 0 (by decide)) (h 2 (by decide)) (by omega)
    obtain ⟨hup, hdown⟩ := within_irefl (h 1 (by decide)) (h 3 (by decide)) h1 (by omega)
    obtain ⟨hd1, hd4⟩ := within_sbf ha hup (by omega)
    obtain ⟨hd2, hd3⟩ := within_sbf hb hdown (by omega)
    have hall : ∀ v ∈ islant4 ((List.range 4).map x), v.Within (m + m + 3 * m) := by
      simp only [range4_map, islant4, List.forall_mem_cons]
      exact ⟨hd1, hd2, hd3, hd4, fun _ h => absurd h List.not_mem_nil⟩
    exact fun v hv => (hall v hv).mono (by omega)

theorem computes_islant8 : Computes 8 islant8 (slantLine 8) where
  value := fun {x y} h => by
    simp only [slantLine_eight, ← h 0 (by decide), ← h 1 (by decide), ← h 2 (by decide), ← h 3 (by decide),
      ← h 4 (by decide), ← h 5 (by decide), ← h 6 (by decide), ← h 7 (by decide), ← neg_one_mul (x 1).val]
    rfl
  map_zeros := by decide
  within := fun {x m} h h1 hm => by
    obtain ⟨hp, hq⟩ := within_part4 (h 1 (by decide)) (h 3 (by decide)) h1 (by omega)
    obtain ⟨hx0, hx0'⟩ := within_sbf (h 0 (by decide)) hq (by omega)
    obtain ⟨hx4, hx4'⟩ := within_sbf (h 4 (by decide)) (h 5 (by decide)) (by omega)
    obtain ⟨hx7, hx7'⟩ := within_sbf (h 7 (by decide)) (h 6 (by decide)) (by omega)
    obtain ⟨hp1, hp2⟩ := within_sbf hp (h 2 (by decide)) (by omega)
    obtain ⟨ht1, ht2⟩ := within_sbf hx0 hx4 (by omega)
    obtain ⟨ht4, ht3⟩ := within_irefl hp1 (hx7'.mono (show m + m ≤ 3 * m + m by omega)) (by omega) (by omega)
    obtain ⟨ht5, ht6⟩ := within_sbf hx0' hx4' (by omega)
    obtain ⟨ht8, ht7⟩ := within_irefl hp2 (hx7.mono (show m + m ≤ 3 * m + m by omega)) (by omega) (by omega)
    obtain ⟨hd1, hd4⟩ := within_sbf ht1 ht4 (by omega)
    obtain ⟨hd2, hd3⟩ := within_sbf ht2 ht3 (by omega)
    obtain ⟨hd5, hd8⟩ := within_sbf ht5 ht8 (by omega)
    obtain ⟨hd6, hd7⟩ := within_sbf ht6 ht7 (by omega)
    have hall : ∀ v ∈ islant8 ((List.range 8).map x), v.Within (m + 3 * m + (m + m) + 3 * (3 * m + m)) := by
      simp only [range8_map, islant8, List.forall_mem_cons]
      exact ⟨hd1, hd2, hd3, hd4, hd5, hd6, hd7, hd8, fun _ h => absurd h List.not_mem_nil⟩
    exact fun v hv => (hall v hv).mono (by omega)

end Sys2Proof.Machine
end

section
/-! SUPPORT. The kernels (42_transforms.md R201, R210 to R222, R231 to R237) as blocks of values: the passes over
columns and rows, and the DC forms. -/

namespace Sys2Proof.Machine

open Sys2Proof.Claims

variable {n : Nat} {tr : List T32 → List T32} {line : (Nat → Int) → Nat → Int} {post : T32 → T32} {g : Int → Int}
  {x : Nat → T32} {y : Nat → Int} {m : Int} {small : Prop} {l : List T32}

/-! ### Entries of lines -/

/-- The line's `n` values, and their size when the inputs are `small`. -/
structure IsLine (n : Nat) (y : Nat → Int) (small : Prop) (m : Int) (l : List T32) : Prop where
  value : l.map T32.val = (List.range n).map y
  within : small → ∀ v ∈ l, v.Within m

theorem getD_map_range {α : Type} (h : Nat → α) (a : α) {k : Nat} (hk : k < n) :
    ((List.range n).map h).getD k a = h k := by
  simp [List.getD_eq_getElem?_getD, hk]

theorem IsLine.val (h : IsLine n y small m l) {k : Nat} (hk : k < n) : (l.getD k (tc 0)).val = y k := by
  rw [← getD_map_range y (tc 0).val hk, ← h.value, List.getD_map]

theorem IsLine.within_getD (h : IsLine n y small m l) (hs : small) (hm : 0 ≤ m) (k : Nat) :
    (l.getD k (tc 0)).Within m := by
  rw [List.getD_eq_getElem?_getD]
  cases hk : l[k]? with
  | none => exact within_tc (by omega)
  | some v => exact h.within hs v (List.mem_of_getElem? hk)

theorem isLine_zeros (hm : 0 ≤ m) : IsLine n (fun _ => 0) small m (zeros n) where
  value := by simp [zeros]
  within := fun _ v hv => by
    rw [List.eq_of_mem_replicate hv]
    exact within_tc (by omega)

theorem IsLine.congr {y' : Nat → Int} (h : IsLine n y small m l) (hy : ∀ k, k < n → y k = y' k) :
    IsLine n y' small m l :=
  ⟨h.value.trans (List.map_congr_left fun k hk => hy k (List.mem_range.mp hk)), h.within⟩

/-! ### Passes -/

theorem Computes.line_zero (h : Computes n tr line) (hy : ∀ j, j < n → y j = 0) {k : Nat} (hk : k < n) :
    line y k = 0 := by
  have hval : (zeros n).map T32.val = (List.range n).map (line y) := by
    have hconst : (List.range n).map (fun _ => tc 0) = zeros n := by simp [zeros]
    rw [← h.value (x := fun _ => tc 0) fun j hj => (hy j hj).symm, hconst, h.map_zeros]
  have hline : IsLine n (line y) False 0 (zeros n) := ⟨hval, False.elim⟩
  rw [← hline.val hk, (isLine_zeros (small := False) le_rfl).val hk]

theorem Computes.isLine (h : Computes n tr line) (hval : ∀ j, j < n → (x j).val = y j)
    (hsmall : small → ∀ j, j < n → (x j).Within m) (h1 : 1 ≤ m) (hm : m ≤ 2 ^ 26) :
    IsLine n (line y) small (18 * m) (tr ((List.range n).map x)) :=
  ⟨h.value hval, fun hs => h.within (hsmall hs) h1 hm⟩

/-- A compensation of R204: `g` on values, and no growth. -/
structure Rounds (post : T32 → T32) (g : Int → Int) : Prop where
  value : ∀ v, (post v).val = g v.val
  zero : g 0 = 0
  within : ∀ {v : T32} {m : Int}, v.Within m → 1 ≤ m → m + 1 < 2 ^ 31 → (post v).Within m

theorem rounds_id : Rounds id id := ⟨fun _ => rfl, rfl, fun h _ _ => h⟩

theorem rounds_rnd : Rounds rnd fun v => (v + 1) / 2 := ⟨fun _ => rfl, rfl, within_rnd⟩

theorem IsLine.map_post (hp : Rounds post g) (h : IsLine n y small m l) (h1 : 1 ≤ m) (hm : m + 1 < 2 ^ 31) :
    IsLine n (fun k => g (y k)) small m (l.map post) where
  value := by
    have hcomp : T32.val ∘ post = g ∘ T32.val := funext hp.value
    rw [List.map_map, hcomp, ← List.map_map, h.value, List.map_map]
    rfl
  within := fun hs v hv => by
    obtain ⟨u, hu, rfl⟩ := List.mem_map.mp hv
    exact hp.within (h.within hs u hu) h1 hm

/-- A row of zeros is not transformed (R201), which its transform would leave zeros too. -/
theorem Computes.isLine_row (h : Computes n tr line) (hp : Rounds post g) (hval : ∀ j, j < n → (x j).val = y j)
    (hsmall : small → ∀ j, j < n → (x j).Within m) (h1 : 1 ≤ m) (hm : m ≤ 2 ^ 26) :
    IsLine n (fun k => g (line y k)) small (18 * m) (rowLine tr post ((List.range n).map x)) := by
  unfold rowLine
  split_ifs with hall
  · have hzero : ∀ j, j < n → y j = 0 := fun j hj => by
      rw [← hval j hj]
      simpa using List.all_eq_true.mp hall (x j) (List.mem_map_of_mem (List.mem_range.mpr hj))
    refine ⟨?_, fun hs v hv => ?_⟩
    · rw [List.map_map, List.map_map]
      refine List.map_congr_left fun k hk => ?_
      rw [h.line_zero hzero (List.mem_range.mp hk), hp.zero]
      rfl
    · rw [List.map_map] at hv
      obtain ⟨j, hj, rfl⟩ := List.mem_map.mp hv
      exact ⟨(hsmall hs j (List.mem_range.mp hj)).ok, show -(18 * m) ≤ 0 by omega, show 0 ≤ 18 * m by omega⟩
  · exact (h.isLine hval hsmall h1 hm).map_post hp (by omega) (by omega)

/-- A column whose flag is 0 is zeros (R201). -/
theorem Computes.isLine_column (h : Computes n tr line) (hp : Rounds post g) (hval : ∀ j, j < n → (x j).val = y j)
    (hsmall : small → ∀ j, j < n → (x j).Within m) (h1 : 1 ≤ m) (hm : m ≤ 2 ^ 26) (flag : Bool) :
    IsLine n (fun k => g (if flag then line y k else 0)) small (18 * m)
      (if flag then (tr ((List.range n).map x)).map post else zeros n) := by
  cases flag with
  | true => exact (h.isLine hval hsmall h1 hm).map_post hp (by omega) (by omega)
  | false => exact (isLine_zeros (by omega)).congr fun _ _ => hp.zero.symm

/-! ### Blocks -/

/-- The output is a block of the given values, and in 32 bits when the inputs are `small`. -/
def Gives (n : Nat) (value : Nat → Nat → Int) (small : Prop) (o : KernelOut) : Prop :=
  ∃ f, IsBlock n f o ∧ (∀ r c, r < n → c < n → (f r c).val = value r c) ∧
    (small → ∀ r c, r < n → c < n → (f r c).ok = true)

theorem at2_map_range (lines : Nat → List T32) {r : Nat} (hr : r < n) (c : Nat) :
    at2 ((List.range n).map lines) r c = (lines r).getD c (tc 0) := by
  rw [at2, getD_map_range lines _ hr]

theorem gives_byRows {lines : Nat → List T32} {value : Nat → Nat → Int} (hm : 0 ≤ m)
    (h : ∀ r, r < n → IsLine n (value r) small m (lines r)) :
    Gives n value small (byRows n ((List.range n).map lines)) := by
  refine ⟨_, isBlock_byRows n _, fun r c hr hc => ?_, fun hs r c hr hc => ?_⟩
  · rw [at2_map_range lines hr]
    exact (h r hr).val hc
  · rw [at2_map_range lines hr]
    exact ((h r hr).within_getD hs hm c).ok

theorem gives_byColumns {lines : Nat → List T32} {value : Nat → Nat → Int} (hm : 0 ≤ m)
    (h : ∀ c, c < n → IsLine n (fun r => value r c) small m (lines c)) :
    Gives n value small (byColumns n ((List.range n).map lines)) := by
  refine ⟨_, isBlock_byColumns n _, fun r c hr hc => ?_, fun hs r c hr hc => ?_⟩
  · rw [at2_map_range lines hc]
    exact (h c hc).val hr
  · rw [at2_map_range lines hc]
    exact ((h c hc).within_getD hs hm r).ok

/-! ### The kernels -/

/-- The coefficients are at most 2^20 in size. -/
def SmallCoefs (inp : Vector Coef 64) : Prop := ∀ i : Fin 64, -2 ^ 20 ≤ (inp[i]).toInt ∧ (inp[i]).toInt ≤ 2 ^ 20

/-- The coefficient in row `r`, column `c`. -/
def coefAt (n : Nat) (inp : Vector Coef 64) (r c : Nat) : T32 := tc ((inp[n * r + c]?.getD 0).toInt)

theorem coefAt_within {inp : Vector Coef 64} (h : SmallCoefs inp) (n r c : Nat) :
    (coefAt n inp r c).Within (2 ^ 20) := by
  refine within_tc ?_
  by_cases hlt : n * r + c < 64
  · rw [Vector.getElem?_eq_getElem hlt]
    exact h ⟨n * r + c, hlt⟩
  · rw [Vector.getElem?_eq_none (by omega)]
    decide

theorem inRow_eq (n : Nat) (inp : Vector Coef 64) (r : Nat) : inRow n inp r = (List.range n).map (coefAt n inp r) := rfl

theorem inColumn_eq (n : Nat) (inp : Vector Coef 64) (c : Nat) :
    inColumn n inp c = (List.range n).map fun r => coefAt n inp r c := rfl

/-- R210 and R217: the upper left quarter doubled. -/
theorem haarScale_inColumn (n : Nat) (inp : Vector Coef 64) (c : Nat) : haarScale n c (inColumn n inp c) =
    (List.range n).map fun r => if r < n / 2 ∧ c < n / 2 then tmul 2 (coefAt n inp r c) else coefAt n inp r c := by
  rw [haarScale, inColumn_eq]
  by_cases hc : c < n / 2
  · rw [if_pos hc]
    refine List.ext_getElem (by simp; omega) fun r hr hr' => ?_
    have hmin : min (n / 2) n = n / 2 := by omega
    by_cases hr2 : r < n / 2
    · simp [hc, hr2, hmin]
    · simp [List.getElem_append, hr2, hmin, Nat.add_sub_cancel' (not_lt.mp hr2)]
  · simp [hc]

variable {inp : Vector Coef 64} {flags : Vector Bool 8}

theorem Computes.gives_row (h : Computes n tr line) (hp : Rounds post g) :
    Gives n (fun r c => g (line (fun j => (coefAt n inp r j).val) c)) (SmallCoefs inp) (kernelRow n tr post inp) :=
  gives_byRows (by decide) fun r _ =>
    h.isLine_row hp (fun _ _ => rfl) (fun hs _ _ => coefAt_within hs n r _) (by decide) (by decide)

theorem Computes.gives_column (h : Computes n tr line) (hp : Rounds post g) :
    Gives n (fun r c => g (if flagOf flags c then line (fun i => (coefAt n inp i c).val) r else 0)) (SmallCoefs inp)
      (kernelColumn n tr post inp flags) :=
  gives_byColumns (by decide) fun c _ =>
    h.isLine_column hp (fun _ _ => rfl) (fun hs _ _ => coefAt_within hs n _ c) (by decide) (by decide) _

/-- The columns and then the rows, of an input `x` that the pre-scale leaves. -/
theorem Computes.gives_2D {pre : Nat → List T32 → List T32} {x : Nat → Nat → T32} {y : Nat → Nat → Int}
    (h : Computes n tr line) (hp : Rounds post g)
    (hpre : ∀ c, pre c (inColumn n inp c) = (List.range n).map fun r => x r c) (hval : ∀ r c, (x r c).val = y r c)
    (hsmall : SmallCoefs inp → ∀ r c, (x r c).Within (2 ^ 21)) :
    Gives n (fun r c => g (line (fun j => if flagOf flags j then line (fun i => y i j) r else 0) c)) (SmallCoefs inp)
      (kernel2D n tr pre post inp flags) := by
  have hcols (c : Nat) : IsLine n (fun r => if flagOf flags c then line (fun i => y i c) r else 0) (SmallCoefs inp)
      (18 * 2 ^ 21) (if flagOf flags c then tr (pre c (inColumn n inp c)) else zeros n) := by
    have hcol := h.isLine_column rounds_id (x := fun r => x r c) (fun r _ => hval r c) (fun hs r _ => hsmall hs r c)
      (by decide) (by decide) (flagOf flags c)
    rwa [List.map_id, ← hpre] at hcol
  rw [kernel2D, rowsOf, List.map_map]
  refine gives_byRows (m := 18 * (18 * 2 ^ 21)) (by decide) fun r hr =>
    h.isLine_row hp (fun j hj => ?_) (fun hs j hj => ?_) (by decide) (by decide)
  · rw [columnPass, at2_map_range _ hj]
    exact (hcols j).val hr
  · rw [columnPass, at2_map_range _ hj]
    exact (hcols j).within_getD hs (by decide) r

/-- R210 and R217. -/
theorem Computes.gives_haar (h : Computes n tr line) :
    Gives n (fun r c => line (fun j => if flagOf flags j then
        line (fun i => if i < n / 2 ∧ j < n / 2 then 2 * (coefAt n inp i j).val else (coefAt n inp i j).val) r
      else 0) c)
      (SmallCoefs inp) (kernel2D n tr (haarScale n) id inp flags) := by
  refine h.gives_2D rounds_id (haarScale_inColumn n inp) (fun r c => ?_) fun hs r c => ?_
  · split_ifs <;> rfl
  · split_ifs
    · exact within_tmul (m := 2 ^ 20) (w := 2) (coefAt_within hs n r c) rfl (by decide)
    · exact (coefAt_within hs n r c).mono (by decide)

/-- R213 and R220. -/
theorem Computes.gives_slant (h : Computes n tr line) :
    Gives n
      (fun r c => (line (fun j => if flagOf flags j then line (fun i => (coefAt n inp i j).val) r else 0) c + 1) / 2)
      (SmallCoefs inp) (kernel2D n tr noScale rnd inp flags) :=
  h.gives_2D rounds_rnd (fun _ => rfl) (fun _ _ => rfl) fun hs r c => (coefAt_within hs n r c).mono (by decide)

/-- R216. -/
theorem gives_copy (n : Nat) (inp : Vector Coef 64) :
    Gives n (fun r c => (coefAt n inp r c).val) (SmallCoefs inp) (byRows n ((List.range n).map (inRow n inp))) :=
  gives_byRows (m := 2 ^ 20) (by decide) fun r _ => ⟨by rw [inRow_eq, List.map_map]; rfl, fun hs v hv => by
    rw [inRow_eq] at hv
    obtain ⟨c, -, rfl⟩ := List.mem_map.mp hv
    exact coefAt_within hs n r c⟩

/-- Each default inverse transform gives the values of R202 and R203. -/
theorem standardKernel_gives (tx : InvTx) (inp : Vector Coef 64) (flags : Vector Bool 8) :
    Gives tx.size (kernelValue tx inp flags) (SmallCoefs inp) (standardKernel tx inp flags) := by
  cases tx with
  | haar8 => exact computes_ihaar8.gives_haar
  | haarrow8 => exact computes_ihaar8.gives_row rounds_id
  | haarcol8 => exact computes_ihaar8.gives_column rounds_id
  | slant8 => exact computes_islant8.gives_slant
  | slantrow8 => exact computes_islant8.gives_row rounds_rnd
  | slantcol8 => exact computes_islant8.gives_column rounds_rnd
  | copy8 => exact gives_copy 8 inp
  | haar4 => exact computes_ihaar4.gives_haar
  | haarrow4 => exact computes_ihaar4.gives_row rounds_id
  | haarcol4 => exact computes_ihaar4.gives_column rounds_id
  | slant4 => exact computes_islant4.gives_slant
  | slantrow4 => exact computes_islant4.gives_row rounds_rnd
  | slantcol4 => exact computes_islant4.gives_column rounds_rnd

/-! ### The DC forms -/

theorem dcKernel_isBlock (tx : DcTx) (dc : Coef) : ∃ f, IsBlock tx.size f (dcKernel tx dc) ∧
    ∀ r c, r < tx.size → c < tx.size → f r c = dcEntry tx dc r c := by
  have rows : ∃ f, IsBlock tx.size f (byRows tx.size ((List.range tx.size).map (dcRow tx dc))) ∧
      ∀ r c, r < tx.size → c < tx.size → f r c = dcEntry tx dc r c :=
    ⟨_, isBlock_byRows _ _, fun r c hr hc => by rw [at2_map_range _ hr, dcRow, getD_map_range _ _ hc]⟩
  have columns : ∃ f, IsBlock tx.size f (byColumns tx.size ((List.range tx.size).map (dcColumn tx dc))) ∧
      ∀ r c, r < tx.size → c < tx.size → f r c = dcEntry tx dc r c :=
    ⟨_, isBlock_byColumns _ _, fun r c hr hc => by rw [at2_map_range _ hc, dcColumn, getD_map_range _ _ hr]⟩
  cases tx with
  | dccolslant8 | dccolslant4 => exact columns
  | _ => exact rows

/-- The rounding sum of R233 to R236 stays in 32 bits but for the largest `dc` (log 29). -/
theorem rnd_tc_ok {dc : Coef} (h : dc.toInt ≠ 2 ^ 31 - 1) : (rnd (tc dc.toInt)).ok = true := by
  have hlow := BitVec.le_toInt dc
  have hhigh := BitVec.toInt_lt (x := dc)
  have hsum : fits32 (dc.toInt + 1) = true := decide_eq_true (by omega)
  have hhalf : fits32 (asr (dc.toInt + 1) 1) = true := decide_eq_true (by unfold asr; omega)
  show ((true && true && fits32 (dc.toInt + 1)) && fits32 (asr (dc.toInt + 1) 1)) = true
  rw [hsum, hhalf]
  rfl

theorem tshr_tc_ok (dc : Coef) : (tshr (tc dc.toInt) 3).ok = true := by
  have hlow := BitVec.le_toInt dc
  have hhigh := BitVec.toInt_lt (x := dc)
  have heighth : fits32 (asr dc.toInt 3) = true := decide_eq_true (by unfold asr; omega)
  exact heighth

theorem dcEntry_ok (tx : DcTx) {dc : Coef} (h : dc.toInt ≠ 2 ^ 31 - 1) (r c : Nat) :
    (dcEntry tx dc r c).ok = true := by
  unfold dcEntry
  split_ifs
  · cases tx with
    | dchaar8 | dchaar4 => exact tshr_tc_ok dc
    | dccopy8 => rfl
    | _ => exact rnd_tc_ok h
  · rfl

theorem dcEntry_val (tx : DcTx) (dc : Coef) (r c : Nat) : (dcEntry tx dc r c).val = dcClosed tx dc.toInt r c := by
  unfold dcEntry
  cases tx with
  | dchaar8 | dchaar4 | dcslant8 | dcslant4 => rfl
  | _ => simp only [DcTx.covers, dcClosed, decide_eq_true_eq]; split_ifs <;> rfl

/-! ### Any `P_KERNELS` -/

/-- Another kernel names the samples the default does (log 6). -/
theorem invKernel_isBlock (kernels : Choice) (tx : InvTx) (inp : Vector Coef 64) (flags : Vector Bool 8) :
    ∃ f, IsBlock tx.size f (invKernel kernels tx inp flags) := by
  obtain ⟨f, hblock, -⟩ := standardKernel_gives tx inp flags
  have hfree (k : Nat) : ∃ f, IsBlock tx.size f (freeKernel k tx inp flags) :=
    ⟨_, hblock.map fun r c => tc (Config.otherKernel k tx (inp.toList.take (tx.size * tx.size))
      (flags.toList.take tx.size) r c).toInt⟩
  have hdc (dcTx : DcTx) (hsize : tx.size = dcTx.size) : ∃ f, IsBlock tx.size f (dcKernel dcTx inp[0]) := by
    obtain ⟨f, hdc, -⟩ := dcKernel_isBlock dcTx inp[0]
    exact ⟨f, hsize ▸ hdc⟩
  cases kernels with
  | standard => exact ⟨f, hblock⟩
  | other k =>
    show ∃ f, IsBlock tx.size f (otherKernel k tx inp flags)
    unfold otherKernel
    cases tx with
    | haar8 | haar4 | slant8 | slant4 =>
      simp only [InvTx.dcForm]
      split_ifs
      · exact hdc _ rfl
      · exact hfree k
    | copy8 => exact ⟨f, hblock⟩
    | _ => exact hfree k

end Sys2Proof.Machine

namespace Sys2Proof.Proofs.TransformFamily

open Sys2Proof.Machine Sys2Proof.Claims

/-- Settles O22: the stores of a block, with the values of the default kernels. -/
theorem invTxSamples : Obligations.InvTxSamples := by
  intro s e he hmem d n out htarget hpitch hoff hwin
  have hbuf := (Bool.and_eq_true_iff.mp htarget).2
  obtain ⟨f, hblock⟩ := invKernel_isBlock s.params.kernels e.2 s.opr.coefs s.opr.flags
  obtain ⟨f', hblock', hvalue, hok⟩ := standardKernel_gives e.2 s.opr.coefs s.opr.flags
  have hstandard (h : s.params.kernels = .standard) : out = standardKernel e.2 s.opr.coefs s.opr.flags := by
    simp only [out, h, invKernel]
  refine ⟨_, (writesKernel_invTx s he).exec_ok htarget (blockFits_iff.mpr ⟨hoff, hwin⟩), fun r c hr hc => ?_,
    fun h hsmall => ?_, hblock.onlyBlock_writeBlock hmem, rfl⟩
  · refine ⟨f r c, hblock.mem hr hc,
      fun hkernel => hblock.sample_writeBlock hmem hbuf hoff hpitch hkernel hr hc, fun h => ?_⟩
    have hmem' : (r, c, f r c) ∈ standardKernel e.2 s.opr.coefs s.opr.flags := hstandard h ▸ hblock.mem hr hc
    rw [((hblock'.mem_iff r c _).mp hmem').2.2]
    exact hvalue r c hr hc
  · rw [hstandard h]
    exact hblock'.kernelOk_iff.mpr (hok hsmall)

/-- Settles O23: the stores of a block, with the closed form of each DC transform. -/
theorem dcTxSamples : Obligations.DcTxSamples := by
  intro s e he hmem d n htarget hpitch hoff hwin hdc
  have hbuf := (Bool.and_eq_true_iff.mp htarget).2
  obtain ⟨f, hblock, hentry⟩ := dcKernel_isBlock e.2 s.opr.dc
  have hok : kernelOk (dcKernel e.2 s.opr.dc) = true := hblock.kernelOk_iff.mpr fun r c hr hc => by
    rw [hentry r c hr hc]
    exact dcEntry_ok e.2 hdc r c
  refine ⟨_, (writesKernel_dcTx s he).exec_ok htarget (blockFits_iff.mpr ⟨hoff, hwin⟩), fun r c hr hc => ?_,
    hblock.onlyBlock_writeBlock hmem, ?_⟩
  · rw [State.complete_sample, hblock.sample_writeBlock hmem hbuf hoff hpitch hok hr hc, hentry r c hr hc, dcEntry_val]
  · simp [State.complete, State.writeBlock, State.setBuffer, hok]

end Sys2Proof.Proofs.TransformFamily
end

section
/-! SUPPORT. The kernels on a DC-only input (42_transforms.md R240, R241): each line has one value that is not 0, which
the butterflies spread. -/

namespace Sys2Proof.Machine

open Sys2Proof.Claims

variable {n : Nat} {tr : List T32 → List T32} {spread : Int → Int} {limit : Int → Prop} {post : T32 → T32} {v : Int}

/-! ### Single operations -/

theorem fits32_of_coef (dc : Coef) : fits32 dc.toInt = true := by
  have hlow := BitVec.le_toInt dc
  have hhigh := BitVec.toInt_lt (x := dc)
  exact decide_eq_true (by omega)

theorem tadd_zero (hv : fits32 v = true) : tadd (tc v) (tc 0) = tc v := by
  simp [tadd, tc, tres, hv]

theorem tsub_zero (hv : fits32 v = true) : tsub (tc v) (tc 0) = tc v := by
  simp [tsub, tc, tres, hv]

theorem tshr_tc {k : Nat} (hv : fits32 (v / 2 ^ k) = true) : tshr (tc v) k = tc (v / 2 ^ k) := by
  simp [tshr, tc, tres, asr, hv]

theorem tmul_tc {k : Int} (hv : fits32 (k * v) = true) : tmul k (tc v) = tc (k * v) := by
  simp [tmul, tc, tres, hv]

theorem hbf_zero (hv : fits32 v = true) : hbf (tc v) (tc 0) = (tc (v / 2), tc (v / 2)) := by
  have hhalf : fits32 (v / 2 ^ 1) = true := by
    have := of_decide_eq_true hv
    exact decide_eq_true (by omega)
  rw [hbf, tadd_zero hv, tsub_zero hv, tshr_tc hhalf]
  rfl

theorem sbf_zero (hv : fits32 v = true) : sbf (tc v) (tc 0) = (tc v, tc v) := by
  rw [sbf, tadd_zero hv, tsub_zero hv]

theorem irefl_zero : irefl (tc 0) (tc 0) = (tc 0, tc 0) := by decide

theorem part4_zero : part4 (tc 0) (tc 0) = (tc 0, tc 0) := by decide

/-! ### Lines -/

/-- A line of `n` values that are 0 but for the first. -/
def dcLine (n : Nat) (v : Int) : List T32 := (List.range n).map fun j => if j = 0 then tc v else tc 0

theorem dcLine_zero (n : Nat) : dcLine n 0 = zeros n := by simp [dcLine, zeros]

/-- `tr` spreads the first value of a DC line over the line. -/
structure Spreads (n : Nat) (tr : List T32 → List T32) (spread : Int → Int) (limit : Int → Prop) : Prop where
  pos : 0 < n
  zero : spread 0 = 0
  line : ∀ v, limit v → tr (dcLine n v) = List.replicate n (tc (spread v))

/-- What the Haar butterflies need of a DC value: room for its double. -/
def DoubleFits (v : Int) : Prop := -2 ^ 30 ≤ v ∧ v < 2 ^ 30

theorem spreads_ihaar4 : Spreads 4 ihaar4 (fun v => v / 2 / 2) DoubleFits where
  pos := by decide
  zero := rfl
  line := fun v hv => by
    obtain ⟨hlow, hhigh⟩ := hv
    have hfull : fits32 v = true := decide_eq_true (by omega)
    have hhalf : fits32 (v / 2) = true := decide_eq_true (by omega)
    simp [dcLine, range4_map, ihaar4, hbf_zero hfull, hbf_zero hhalf, List.replicate]

theorem spreads_ihaar8 : Spreads 8 ihaar8 (fun v => v / 2 / 2) DoubleFits where
  pos := by decide
  zero := rfl
  line := fun v hv => by
    obtain ⟨hlow, hhigh⟩ := hv
    have hdouble : fits32 (2 * v) = true := decide_eq_true (by omega)
    have hfull : fits32 v = true := decide_eq_true (by omega)
    have hhalf : fits32 (v / 2) = true := decide_eq_true (by omega)
    simp [dcLine, range8_map, ihaar8, tmul_tc hdouble, tmul_tc (k := 2) (v := 0) rfl, hbf_zero hdouble, hbf_zero hfull,
      hbf_zero hhalf, List.replicate]

theorem spreads_islant4 : Spreads 4 islant4 id (fun v => fits32 v = true) where
  pos := by decide
  zero := rfl
  line := fun v hv => by
    simp [dcLine, range4_map, islant4, sbf_zero hv, irefl_zero, List.replicate]

theorem spreads_islant8 : Spreads 8 islant8 id (fun v => fits32 v = true) where
  pos := by decide
  zero := rfl
  line := fun v hv => by
    simp [dcLine, range8_map, islant8, part4_zero, sbf_zero hv, sbf_zero (v := 0) rfl, irefl_zero, List.replicate]

/-- A row of zeros is its own transform, so the DC line need not be tested for it. -/
theorem Spreads.rowLine_dcLine (h : Spreads n tr spread limit) (hpost : post (tc 0) = tc 0) (hv : limit v) :
    rowLine tr post (dcLine n v) = List.replicate n (post (tc (spread v))) := by
  unfold rowLine
  by_cases hv0 : v = 0
  · subst hv0
    rw [dcLine_zero, h.zero, hpost]
    simp [zeros, tc]
  · have hfirst : tc v ∈ dcLine n v := List.mem_map.mpr ⟨0, List.mem_range.mpr h.pos, rfl⟩
    have hall : ¬((dcLine n v).all fun u => decide (u.val = 0)) = true := fun hall =>
      hv0 (of_decide_eq_true (List.all_eq_true.mp hall _ hfirst))
    rw [if_neg hall, h.line v hv, List.map_replicate]

/-! ### The DC-only input -/

theorem dcOnly_toList (dc : Coef) : (dcOnly dc).toList = dc :: List.replicate 63 0 := rfl

theorem coefAt_dcOnly (hn : 0 < n) (dc : Coef) (r c : Nat) :
    coefAt n (dcOnly dc) r c = if r = 0 ∧ c = 0 then tc dc.toInt else tc 0 := by
  have hfirst : 0 = n * r + c ↔ r = 0 ∧ c = 0 := by simp [eq_comm, hn.ne']
  simp only [coefAt, dcOnly, Vector.getElem?_set, Vector.getElem?_replicate, hfirst]
  split_ifs <;> rfl

theorem flagOf_firstColumn (c : Nat) : flagOf firstColumn c = decide (c = 0) := by
  by_cases hc : c = 0
  · subst hc
    rfl
  · simp only [flagOf, firstColumn, Vector.getElem?_set, Vector.getElem?_replicate, if_neg (Ne.symm hc)]
    split_ifs <;> simp [hc]

theorem inRow_dcOnly (hn : 0 < n) (dc : Coef) (r : Nat) :
    inRow n (dcOnly dc) r = dcLine n (if r = 0 then dc.toInt else 0) := by
  refine List.map_congr_left fun c _ => (coefAt_dcOnly hn dc r c).trans ?_
  by_cases hr : r = 0 <;> simp [hr]

theorem inColumn_dcOnly (hn : 0 < n) (dc : Coef) (c : Nat) :
    inColumn n (dcOnly dc) c = dcLine n (if c = 0 then dc.toInt else 0) := by
  refine List.map_congr_left fun r _ => (coefAt_dcOnly hn dc r c).trans ?_
  by_cases hc : c = 0 <;> simp [hc]

/-! ### The kernels on it -/

theorem Spreads.kernelRow_dcOnly (h : Spreads n tr spread limit) (hpost : post (tc 0) = tc 0) {dc : Coef}
    (hdc : limit dc.toInt) (h0 : limit 0) : kernelRow n tr post (dcOnly dc) =
      byRows n ((List.range n).map fun r =>
        List.replicate n (if r = 0 then post (tc (spread dc.toInt)) else tc 0)) := by
  refine congrArg (byRows n) (List.map_congr_left fun r _ => ?_)
  rw [inRow_dcOnly h.pos, h.rowLine_dcLine hpost (by split_ifs <;> assumption)]
  split_ifs
  · rfl
  · rw [h.zero, hpost]

theorem Spreads.kernelColumn_dcOnly (h : Spreads n tr spread limit) {dc : Coef} (hdc : limit dc.toInt) :
    kernelColumn n tr post (dcOnly dc) firstColumn =
      byColumns n ((List.range n).map fun c =>
        List.replicate n (if c = 0 then post (tc (spread dc.toInt)) else tc 0)) := by
  refine congrArg (byColumns n) (List.map_congr_left fun c _ => ?_)
  rw [flagOf_firstColumn, inColumn_dcOnly h.pos]
  by_cases hc : c = 0
  · simp [hc, h.line _ hdc]
  · simp [hc, zeros]

theorem Spreads.kernel2D_dcOnly (h : Spreads n tr spread limit) (hpost : post (tc 0) = tc 0) {dc : Coef} {w : Int}
    {pre : Nat → List T32 → List T32} (hpre : pre 0 (inColumn n (dcOnly dc) 0) = dcLine n w) (hw : limit w)
    (hspread : limit (spread w)) : kernel2D n tr pre post (dcOnly dc) firstColumn =
      byRows n ((List.range n).map fun _ => List.replicate n (post (tc (spread (spread w))))) := by
  rw [kernel2D, rowsOf, List.map_map]
  refine congrArg (byRows n) (List.map_congr_left fun r hmem => ?_)
  have hr := List.mem_range.mp hmem
  have hrow : ((List.range n).map fun c => at2 (columnPass n tr pre (dcOnly dc) firstColumn) c r)
      = dcLine n (spread w) := by
    refine List.map_congr_left fun c hc => ?_
    rw [columnPass, at2_map_range _ (List.mem_range.mp hc), flagOf_firstColumn]
    by_cases hc0 : c = 0
    · subst hc0
      simp [hpre, h.line w hw, hr]
    · simp [hc0, zeros, hr]
  rw [Function.comp_apply, hrow, h.rowLine_dcLine hpost hspread]

theorem Spreads.haar_dcOnly (h : Spreads n tr (fun v => v / 2 / 2) DoubleFits) (hn : 1 < n) {dc : Coef}
    (hlow : -2 ^ 28 < dc.toInt) (hhigh : dc.toInt < 2 ^ 28) : kernel2D n tr (haarScale n) id (dcOnly dc) firstColumn =
      byRows n ((List.range n).map fun _ => List.replicate n (tshr (tc dc.toInt) 3)) := by
  have hdouble : tmul 2 (tc dc.toInt) = tc (2 * dc.toInt) := tmul_tc (decide_eq_true (by omega))
  have hpre : haarScale n 0 (inColumn n (dcOnly dc) 0) = dcLine n (2 * dc.toInt) := by
    rw [haarScale_inColumn]
    refine List.map_congr_left fun r _ => ?_
    rw [coefAt_dcOnly h.pos]
    by_cases hr : r = 0
    · have hhalf : 0 < n / 2 := by omega
      simp [hr, hhalf, hdouble]
    · have hzero : tmul 2 (tc 0) = tc 0 := rfl
      simp [hr, hzero]
  have hvalue : tshr (tc dc.toInt) 3 = tc (2 * dc.toInt / 2 / 2 / 2 / 2) := by
    rw [tshr_tc (decide_eq_true (by omega))]
    exact congrArg tc (by omega)
  rw [h.kernel2D_dcOnly rfl hpre ⟨by omega, by omega⟩ ⟨by omega, by omega⟩, hvalue]
  rfl

theorem Spreads.slant_dcOnly (h : Spreads n tr id fun v => fits32 v = true) (dc : Coef) :
    kernel2D n tr noScale rnd (dcOnly dc) firstColumn =
      byRows n ((List.range n).map fun _ => List.replicate n (rnd (tc dc.toInt))) :=
  h.kernel2D_dcOnly (by decide) (inColumn_dcOnly h.pos dc 0) (fits32_of_coef dc) (fits32_of_coef dc)

/-- R240 for the default kernels. -/
theorem standardKernel_dcForm {tx : InvTx} {dcTx : DcTx} {dc : Coef} (hform : tx.dcForm = some dcTx)
    (hlow : -2 ^ 28 < dc.toInt) (hhigh : dc.toInt < 2 ^ 28) :
    standardKernel tx (dcOnly dc) firstColumn = dcKernel dcTx dc := by
  cases tx with
  | haar8 => cases hform; exact spreads_ihaar8.haar_dcOnly (by decide) hlow hhigh
  | haar4 => cases hform; exact spreads_ihaar4.haar_dcOnly (by decide) hlow hhigh
  | slant8 => cases hform; exact spreads_islant8.slant_dcOnly dc
  | slant4 => cases hform; exact spreads_islant4.slant_dcOnly dc
  | _ => cases hform

/-- R240 speaks of the DC-only input of a 2D transform. -/
theorem dcInput_dcOnly {dc : Coef} (hn : n = 4 ∨ n = 8) (hlow : -2 ^ 28 < dc.toInt) (hhigh : dc.toInt < 2 ^ 28) :
    dcInput n (dcOnly dc) firstColumn = true := by
  have hrange : decide (-2 ^ 28 < (dcOnly dc)[0].toInt ∧ (dcOnly dc)[0].toInt < 2 ^ 28) = true :=
    decide_eq_true ⟨hlow, hhigh⟩
  have hflags : decide (firstColumn.toList.take n = true :: List.replicate (n - 1) false) = true := by
    rcases hn with rfl | rfl <;> decide
  have hrest : ((dcOnly dc).toList.take (n * n)).tail.all (fun v => decide (v = 0)) = true := by
    rcases hn with rfl | rfl <;> rfl
  rw [dcInput, hrest, hflags, hrange]
  rfl

/-- R240 for every `P_KERNELS` (92_eei_decisions.md D14). -/
theorem invKernel_dcForm (kernels : Choice) {tx : InvTx} {dcTx : DcTx} {dc : Coef} (hform : tx.dcForm = some dcTx)
    (hlow : -2 ^ 28 < dc.toInt) (hhigh : dc.toInt < 2 ^ 28) :
    invKernel kernels tx (dcOnly dc) firstColumn = dcKernel dcTx dc := by
  have hsize : tx.size = 4 ∨ tx.size = 8 := by cases tx <;> decide
  cases kernels with
  | standard => exact standardKernel_dcForm hform hlow hhigh
  | other k =>
    show otherKernel k tx (dcOnly dc) firstColumn = _
    rw [otherKernel, hform]
    exact if_pos (dcInput_dcOnly hsize hlow hhigh)

/-- R241 for the default Slant kernels of rows. -/
theorem Spreads.slantRow_dcOnly (h : Spreads n tr id fun v => fits32 v = true) (dc : Coef) :
    kernelRow n tr rnd (dcOnly dc) =
      byRows n ((List.range n).map fun r => List.replicate n (if r = 0 then rnd (tc dc.toInt) else tc 0)) :=
  h.kernelRow_dcOnly (by decide) (fits32_of_coef dc) rfl

/-- R241 for the default Slant kernels of columns. -/
theorem Spreads.slantColumn_dcOnly (h : Spreads n tr id fun v => fits32 v = true) (dc : Coef) :
    kernelColumn n tr rnd (dcOnly dc) firstColumn =
      byColumns n ((List.range n).map fun c => List.replicate n (if c = 0 then rnd (tc dc.toInt) else tc 0)) :=
  h.kernelColumn_dcOnly (fits32_of_coef dc)

/-- The rows of a DC-only block after a row-only kernel. -/
theorem Spreads.mem_kernelRow (h : Spreads n tr spread limit) (hpost : post (tc 0) = tc 0) {dc : Coef}
    (hdc : limit dc.toInt) (h0 : limit 0) {c : Nat} (hc : c < n) :
    (0, c, post (tc (spread dc.toInt))) ∈ kernelRow n tr post (dcOnly dc) := by
  rw [h.kernelRow_dcOnly hpost hdc h0]
  refine ((isBlock_byRows n _).mem_iff _ _ _).mpr ⟨h.pos, hc, ?_⟩
  rw [at2_map_range _ h.pos]
  simp [hc]

/-- The columns of a DC-only block after a column-only kernel. -/
theorem Spreads.mem_kernelColumn (h : Spreads n tr spread limit) {dc : Coef} (hdc : limit dc.toInt) {r : Nat}
    (hr : r < n) :
    (r, 0, post (tc (spread dc.toInt))) ∈ kernelColumn n tr post (dcOnly dc) firstColumn := by
  rw [h.kernelColumn_dcOnly hdc]
  refine ((isBlock_byColumns n _).mem_iff _ _ _).mpr ⟨hr, h.pos, ?_⟩
  rw [at2_map_range _ h.pos]
  simp [hr]

theorem mem_dcKernel (tx : DcTx) (dc : Coef) {r c : Nat} (hr : r < tx.size) (hc : c < tx.size) :
    (r, c, dcEntry tx dc r c) ∈ dcKernel tx dc := by
  obtain ⟨f, hblock, hentry⟩ := dcKernel_isBlock tx dc
  exact hentry r c hr hc ▸ hblock.mem hr hc

/-- Commands whose kernels agree on a DC-only block are the same command on it. -/
theorem exec_eq_of_dcOnly {s : State} {i j : Instr} {tx : InvTx} {dcTx : DcTx} (hi : (i, tx) ∈ invTxOf)
    (hj : (j, dcTx) ∈ dcTxOf) (hsize : tx.size = dcTx.size) (hcoefs : s.opr.coefs = dcOnly s.opr.dc)
    (hflags : s.opr.flags = firstColumn)
    (hkernel : invKernel s.params.kernels tx (dcOnly s.opr.dc) firstColumn = dcKernel dcTx s.opr.dc) :
    exec i s = exec j s := by
  have hinv := writesKernel_invTx s hi
  rw [hcoefs, hflags, hkernel, hsize] at hinv
  exact hinv.exec_eq (writesKernel_dcTx s hj)

end Sys2Proof.Machine

namespace Sys2Proof.Proofs.TransformFamily

open Sys2Proof.Machine Sys2Proof.Claims

/-- Settles O24: the kernel of each 2D transform gives what the kernel of its DC form gives. -/
theorem dcEquivalence : Obligations.DcEquivalence := by
  intro s hcoefs hflags hlow hhigh
  have agree (i j : Instr) (tx : InvTx) (dcTx : DcTx) (hi : (i, tx) ∈ invTxOf) (hj : (j, dcTx) ∈ dcTxOf)
      (hsize : tx.size = dcTx.size) (hform : tx.dcForm = some dcTx) : exec i s = exec j s :=
    exec_eq_of_dcOnly hi hj hsize hcoefs hflags (invKernel_dcForm _ hform hlow hhigh)
  exact ⟨agree _ _ .haar8 .dchaar8 (by decide) (by decide) rfl rfl,
    agree _ _ .haar4 .dchaar4 (by decide) (by decide) rfl rfl,
    agree _ _ .slant8 .dcslant8 (by decide) (by decide) rfl rfl,
    agree _ _ .slant4 .dcslant4 (by decide) (by decide) rfl rfl⟩

/-- Settles O25: the Slant kernels spread a DC value as it is; the Haar ones divide it by 4, their DC forms by 8. -/
theorem rowColumnDc : Obligations.RowColumnDc := by
  refine ⟨fun s hkernels hcoefs hflags => ?_, fun i hi => ?_, fun i hi => ?_⟩
  · have agree (i j : Instr) (tx : InvTx) (dcTx : DcTx) (hi : (i, tx) ∈ invTxOf) (hj : (j, dcTx) ∈ dcTxOf)
        (hsize : tx.size = dcTx.size)
        (h : standardKernel tx (dcOnly s.opr.dc) firstColumn = dcKernel dcTx s.opr.dc) : exec i s = exec j s :=
      exec_eq_of_dcOnly hi hj hsize hcoefs hflags (by rwa [hkernels])
    exact ⟨
      agree _ _ .slantrow8 .dcrowslant8 (by decide) (by decide) rfl (spreads_islant8.slantRow_dcOnly _),
      agree _ _ .slantrow4 .dcrowslant4 (by decide) (by decide) rfl (spreads_islant4.slantRow_dcOnly _),
      agree _ _ .slantcol8 .dccolslant8 (by decide) (by decide) rfl (spreads_islant8.slantColumn_dcOnly _),
      agree _ _ .slantcol4 .dccolslant4 (by decide) (by decide) rfl (spreads_islant4.slantColumn_dcOnly _)⟩
  · have hfits : DoubleFits (8 : Coef).toInt := ⟨by decide, by decide⟩
    exact ⟨spreads_ihaar8.mem_kernelRow rfl hfits ⟨by decide, by decide⟩ hi, mem_dcKernel .dchaar8 8 (by decide) hi,
      spreads_ihaar8.mem_kernelColumn hfits hi, mem_dcKernel .dchaar8 8 hi (by decide)⟩
  · have hfits : DoubleFits (8 : Coef).toInt := ⟨by decide, by decide⟩
    exact ⟨spreads_ihaar4.mem_kernelRow rfl hfits ⟨by decide, by decide⟩ hi, mem_dcKernel .dchaar4 8 (by decide) hi,
      spreads_ihaar4.mem_kernelColumn hfits hi, mem_dcKernel .dchaar4 8 hi (by decide)⟩

end Sys2Proof.Proofs.TransformFamily
end

section
/-! SUPPORT. The motion-compensation commands as one command (43_motion_comp.md R250 to R259): the head check as three
tests, what the samples are after a prediction was written, and the two values a command writes. -/

namespace Sys2Proof.Machine

open Sys2Proof.Claims

variable {s : State} {bd : Band} {o : McOps} {n : Nat} {t : BitVec 2} {second : Option (BitVec 2)}

/-! ### The head check -/

theorem windowFits_iff {off : Int} {extra : Nat} :
    windowFits off bd.pitch n extra bd.bufsize = true ↔ windowOk bd off n extra := decide_eq_true_iff

/-- Two tests of one error kind in a row are one test. -/
theorem firstError_merge (a b : Bool) (e : ErrKind) (l : List (Bool × ErrKind)) :
    firstError ((a, e) :: (b, e) :: l) = firstError ((a || b, e) :: l) := by
  cases a <;> simp [firstError]

/-- Every window of an MC command lies in the buffer (R251); `second` is the type of a second reference. -/
def mcFits (bd : Band) (o : Opr) (n : Nat) (t : BitVec 2) (second : Option (BitVec 2)) : Bool :=
  windowFits o.dst.off bd.pitch n 0 bd.bufsize && windowFits o.roff1 bd.pitch n (extraReach bd t) bd.bufsize &&
    second.all fun t2 => windowFits o.roff2 bd.pitch n (extraReach bd t2) bd.bufsize

/-- The buffers of an MC command exist (R253). -/
def State.mcPresent (s : State) (second : Option (BitVec 2)) : Bool :=
  s.hasBuffer s.opr.dst.p s.opr.dst.b s.opr.dst.k && s.hasBuffer s.opr.dst.p s.opr.dst.b s.opr.k1 &&
    second.all fun _ => s.hasBuffer s.opr.dst.p s.opr.dst.b s.opr.k2

/-- The destination of an MC command is one of its references (R253). -/
def mcClash (o : Opr) (second : Option (BitVec 2)) : Bool :=
  decide (o.dst.k = o.k1) || second.any fun _ => decide (o.dst.k = o.k2)

theorem mcFits_single {o : Opr} : mcFits bd o n t none = true ↔ mcWindows bd o n t := by
  simp only [mcFits, Option.all_none, Bool.and_true, Bool.and_eq_true, windowFits_iff]

theorem mcFits_average {o : Opr} {t2 : BitVec 2} :
    mcFits bd o n t (some t2) = true ↔ mcWindows bd o n t ∧ windowOk bd o.roff2 n (extraReach bd t2) := by
  simp only [mcFits, Option.all_some, Bool.and_eq_true, windowFits_iff]

theorem mcPresent_and_apart_of_mcBuffers (h : mcBuffers s) : s.mcPresent none = true ∧ mcClash s.opr none = false := by
  obtain ⟨hdst, href, hne⟩ := h
  simp [State.mcPresent, mcClash, hdst, href, hne]

theorem mcPresent_and_apart_of_mcBuffers2 {t2 : BitVec 2} (h : mcBuffers2 s) :
    s.mcPresent (some t2) = true ∧ mcClash s.opr (some t2) = false := by
  obtain ⟨⟨hdst, href, hne⟩, href2, hne2⟩ := h
  simp [State.mcPresent, mcClash, hdst, href, hne, href2, hne2]

/-- The head check in a band that exists: the windows, then the buffers, then the destination's index. -/
theorem checkMc_eq (hband : s.band? s.opr.dst.p s.opr.dst.b = some bd) :
    checkMc (mcOps s.opr) n t.toNat (second.map BitVec.toNat) s = firstError
      [(!mcFits bd s.opr n t second, .mvOob), (!s.mcPresent second, .noReference),
       (mcClash s.opr second, .badState)] := by
  have hband' : s.band? (mcOps s.opr).p (mcOps s.opr).b = some bd := hband
  rw [checkMc, hband']
  simp only [firstError_merge]
  cases second with
  | none =>
    simp only [mcFits, State.mcPresent, mcClash, Option.all_none, Option.any_none, Option.map_none, Option.isSome_none,
      Bool.and_true, Bool.false_and, Bool.or_false, Bool.not_and]
    rfl
  | some t2 =>
    simp only [mcFits, State.mcPresent, mcClash, Option.all_some, Option.any_some, Bool.not_and]
    rfl

/-! ### Writing a prediction -/

theorem mem_blockCells {r c : Nat} : (r, c) ∈ blockCells n ↔ r < n ∧ c < n := by
  simp [blockCells]

theorem nodup_blockCells (n : Nat) : (blockCells n).Nodup := List.nodup_range.product List.nodup_range

theorem nodup_blockCells_addr {off : Int} {pitch : Nat} (hoff : 0 ≤ off) (hpitch : n ≤ pitch) :
    ((blockCells n).map fun e => blockAddr off pitch e.1 e.2).Nodup := by
  have hcol : ∀ e ∈ blockCells n, e.2 < pitch := fun e he => (mem_blockCells.mp he).2.trans_le hpitch
  exact (nodup_blockCells n).map_on fun e he f hf heq =>
    Prod.ext_iff.mpr (blockAddr_inj hoff (hcol e he) (hcol f hf) heq)

theorem State.bandPitch_eq {p b : Nat} (hband : s.band? p b = some bd) : s.bandPitch p b = bd.pitch := by
  rw [State.bandPitch, hband]

variable {delta : Bool} {val : Nat → Nat → Int}

/-- What each sample is after a prediction was written. -/
theorem State.sample_mcWrite (hband : s.band? o.p o.b = some bd) (p b k a : Nat) :
    (s.mcWrite o n delta val).sample p b k a =
      if (p = o.p ∧ b = o.b ∧ k = o.k) ∧ s.hasBuffer o.p o.b o.k = true then
        bufRead (mcStore delta bd.pitch o.off val (s.bufferOf o.p o.b o.k) (blockCells n)) a
      else s.sample p b k a := by
  rw [State.mcWrite, State.sample_setBuffer, State.bandPitch_eq hband]

/-- A sample of the block is the value, or what stood there plus it (R254, R255). -/
theorem State.sample_mcWrite_cell (hmem : s.MemoryOk) (hband : s.band? o.p o.b = some bd)
    (hbuf : s.hasBuffer o.p o.b o.k = true) (hoff : 0 ≤ o.off) (hpitch : n ≤ bd.pitch) {r c : Nat} (hr : r < n)
    (hc : c < n) : (s.mcWrite o n delta val).sample o.p o.b o.k (cell bd o.off r c)
      = wrap16 ((if delta then (s.sample o.p o.b o.k (cell bd o.off r c)).toInt else 0) + val r c) := by
  rw [State.sample_mcWrite hband, if_pos ⟨⟨rfl, rfl, rfl⟩, hbuf⟩, cell,
    bufRead_mcStore_mem _ _ _ _ (State.bufWf_bufferOf hmem _ _ _) (nodup_blockCells_addr hoff hpitch)
      (mem_blockCells.mpr ⟨hr, hc⟩)]
  cases delta with
  | false => simp
  | true => rfl

/-- Every sample outside the block stays. -/
theorem State.onlyBlock_mcWrite (hmem : s.MemoryOk) (hband : s.band? o.p o.b = some bd) :
    onlyBlock s (s.mcWrite o n delta val) o.p o.b o.k o.off bd.pitch n := by
  intro p b k a hout
  rw [State.sample_mcWrite hband]
  split_ifs with hbuf
  · obtain ⟨⟨rfl, rfl, rfl⟩, -⟩ := hbuf
    refine bufRead_mcStore_other _ _ _ _ (State.bufWf_bufferOf hmem _ _ _) fun e he haddr =>
      hout ⟨⟨rfl, rfl, rfl⟩, ?_⟩
    obtain ⟨hr, hc⟩ := mem_blockCells.mp he
    exact ⟨e.1, e.2, hr, hc, haddr.symm⟩
  · rfl

/-- `mctmp` and the samples are written apart. -/
theorem State.mcWrite_withMcTmp (s : State) (o : McOps) (m n : Nat) (sum : Nat → Nat → Sample) :
    (s.withMcTmp m sum).mcWrite o n delta val = (s.mcWrite o n delta val).withMcTmp m sum := by
  have hpitch : (s.withMcTmp m sum).bandPitch o.p o.b = s.bandPitch o.p o.b := by
    rw [State.bandPitch, State.withMcTmp_bandOpt, State.bandPitch]
  have hbuf : (s.withMcTmp m sum).bufferOf o.p o.b o.k = s.bufferOf o.p o.b o.k := by
    rw [State.bufferOf, State.withMcTmp_bufferOpt, State.bufferOf]
  rw [State.mcWrite, hpitch, hbuf, State.mcWrite, State.setBuffer, State.withMcTmp_hasBuffer, State.setBuffer]
  rfl

/-- Adding to zeros is writing. -/
theorem mcStore_delta_of_zero {buf : Buf} {pitch : Nat} {off : Int} {l : List (Nat × Nat)} (hbuf : bufWf buf = true)
    (hnodup : (l.map fun e => blockAddr off pitch e.1 e.2).Nodup)
    (hzero : ∀ e ∈ l, bufRead buf (blockAddr off pitch e.1 e.2) = 0) :
    mcStore true pitch off val buf l = mcStore false pitch off val buf l := by
  induction l generalizing buf with
  | nil => rfl
  | cons e l ih =>
    obtain ⟨r, c⟩ := e
    obtain ⟨hnot, hrest⟩ := List.nodup_cons.mp hnodup
    have hhead : (bufRead buf (blockAddr off pitch r c)).toInt + val r c = val r c := by
      rw [hzero _ List.mem_cons_self]
      exact Int.zero_add _
    simp only [mcStore, if_true, hhead, Bool.false_eq_true, if_false]
    refine ih (bufWf_write _ _ hbuf) hrest fun f hf => ?_
    have hne : blockAddr off pitch f.1 f.2 ≠ blockAddr off pitch r c := fun h => hnot (List.mem_map.mpr ⟨f, hf, h⟩)
    rw [bufRead_write _ _ _ hbuf, if_neg hne]
    exact hzero _ (List.mem_cons_of_mem _ hf)

/-- On a zero block the two forms of a prediction write the same state. -/
theorem State.mcWrite_delta_of_zero (hmem : s.MemoryOk) (hband : s.band? o.p o.b = some bd) (hoff : 0 ≤ o.off)
    (hpitch : n ≤ bd.pitch) (hzero : ∀ r c, r < n → c < n → s.sample o.p o.b o.k (cell bd o.off r c) = 0) :
    s.mcWrite o n true val = s.mcWrite o n false val := by
  have hstore := mcStore_delta_of_zero (val := val) (State.bufWf_bufferOf hmem o.p o.b o.k)
    (nodup_blockCells_addr hoff hpitch) fun e he => hzero e.1 e.2 (mem_blockCells.mp he).1 (mem_blockCells.mp he).2
  rw [State.mcWrite, State.mcWrite, State.bandPitch_eq hband, hstore]

/-! ### The values -/

/-- The prediction of R252 in the words of the statements. -/
theorem predict_eq_taps (p b k : Nat) (roff : Int) (t : BitVec 2) (r c : Nat) :
    predict (s.bufferOf p b k) bd.pitch roff t.toNat r c = taps s p b k bd.pitch (cell bd roff r c) t := by
  match t with
  | 0 | 1 | 2 | 3 => rfl

theorem State.predicted_eq_taps (hband : s.band? o.p o.b = some bd) (r c : Nat) :
    s.predicted o t.toNat r c = taps s o.p o.b o.k1 bd.pitch (cell bd o.roff1 r c) t := by
  rw [State.predicted, State.bandPitch_eq hband, predict_eq_taps]

theorem State.mcSum_eq_taps (hband : s.band? o.p o.b = some bd) (t2 : BitVec 2) (r c : Nat) :
    s.mcSum o t.toNat t2.toNat r c =
      wrap16 ((wrap16 (taps s o.p o.b o.k1 bd.pitch (cell bd o.roff1 r c) t)).toInt
        + taps s o.p o.b o.k2 bd.pitch (cell bd o.roff2 r c) t2) := by
  rw [State.mcSum, State.predicted_eq_taps hband, State.bandPitch_eq hband, predict_eq_taps]

/-- `mctmp[r*n + c]` is the sum of row `r`, column `c` (R258). -/
theorem mcTmpOf_get (old : Vector Sample 64) (sum : Nat → Nat → Sample) (hn : n * n ≤ 64) {r c : Nat} (hr : r < n)
    (hc : c < n) : (mcTmpOf old n sum)[r * n + c]? = some (sum r c) := by
  have hlt : r * n + c < n * n :=
    calc r * n + c < (r + 1) * n := by rw [Nat.succ_mul]; omega
      _ ≤ n * n := Nat.mul_le_mul_right n hr
  have hrow : (r * n + c) / n = r := by
    rw [Nat.mul_comm, Nat.mul_add_div (by omega), Nat.div_eq_of_lt hc, Nat.add_zero]
  have hcol : (r * n + c) % n = c := by rw [Nat.mul_comm, Nat.mul_add_mod, Nat.mod_eq_of_lt hc]
  rw [Vector.getElem?_eq_getElem (hlt.trans_le hn), mcTmpOf, Vector.getElem_ofFn, if_pos hlt, hrow, hcol]

theorem toInt_wrap16 {v : Int} (hlow : -2 ^ 15 ≤ v) (hhigh : v < 2 ^ 15) : (wrap16 v).toInt = v :=
  BitVec.toInt_ofInt_eq_self (by decide) hlow hhigh

@[simp] theorem wrap16_toInt (v : Sample) : wrap16 v.toInt = v := BitVec.ofInt_toInt

/-- A sample whose double stays in 16 bits is half of its sum with itself. -/
theorem half_of_twice {v : Sample} (hlow : -2 ^ 15 < 2 * v.toInt) (hhigh : 2 * v.toInt < 2 ^ 15) :
    (wrap16 ((wrap16 ((wrap16 v.toInt).toInt + v.toInt)).toInt / 2)).toInt = v.toInt := by
  have hsum : (wrap16 (v.toInt + v.toInt)).toInt = 2 * v.toInt := by
    rw [toInt_wrap16 (by omega) (by omega), Int.two_mul]
  rw [wrap16_toInt, hsum, Int.mul_ediv_cancel_left _ (by decide), wrap16_toInt]

/-! ### The commands -/

/-- An MC command stops with the error of its head check, else completes in `u`. -/
structure Predicts (i : Instr) (s : State) (n : Nat) (t : BitVec 2) (second : Option (BitVec 2)) (u : State) :
    Prop where
  completes : checkMc (mcOps s.opr) n t.toNat (second.map BitVec.toNat) s = none → exec i s = .next u.complete
  stops : ∀ {e : ErrKind}, checkMc (mcOps s.opr) n t.toNat (second.map BitVec.toNat) s = some e →
    exec i s = .next (s.headError e)

/-- What a single-reference command writes (R254 to R257). -/
def State.singleMc (s : State) (n : Nat) (delta : Bool) (t : BitVec 2) : State :=
  s.mcWrite (mcOps s.opr) n delta (s.predicted (mcOps s.opr) t.toNat)

/-- What an averaging command writes (R258, R259). -/
def State.averageMc (s : State) (n : Nat) (delta : Bool) (t t2 : BitVec 2) : State :=
  (s.mcWrite (mcOps s.opr) n delta fun r c => asr (s.mcSum (mcOps s.opr) t.toNat t2.toNat r c).toInt 1).withMcTmp n
    (s.mcSum (mcOps s.opr) t.toNat t2.toNat)

/-- An averaging command changes samples, `mctmp` and the error alone. -/
theorem State.averageMc_frame (s : State) (n : Nat) (delta : Bool) (t t2 : BitVec 2) :
    let u := (s.averageMc n delta t t2).complete
    u = { s with mem := { s.mem with arena := u.mem.arena }, err := .none,
                 scratch := { s.scratch with mctmp := u.scratch.mctmp } } := by
  intro u
  simp only [u, State.averageMc, State.withMcTmp, State.mcWrite_scratch]
  generalize mcTmpOf s.scratch.mctmp n (s.mcSum (mcOps s.opr) t.toNat t2.toNat) = tmp
  rfl

theorem predicts_single (s : State) (t : BitVec 2) {e : (BitVec 2 → Instr) × Nat × Bool} (he : e ∈ mcOf) :
    Predicts (e.1 t) s e.2.1 t none (s.singleMc e.2.1 e.2.2 t) := by
  fin_cases he <;> exact ⟨fun h => command_ok rfl h rfl, command_headError rfl⟩

theorem predicts_average (s : State) (t t2 : BitVec 2) {e : (BitVec 2 → BitVec 2 → Instr) × Nat × Bool}
    (he : e ∈ mcAvgOf) : Predicts (e.1 t t2) s e.2.1 t (some t2) (s.averageMc e.2.1 e.2.2 t t2) := by
  rw [State.averageMc, ← State.mcWrite_withMcTmp]
  fin_cases he <;> exact ⟨fun h => command_ok rfl h rfl, command_headError rfl⟩

section
variable {i j : Instr} {u v : State}

theorem Predicts.exec_ok (h : Predicts i s n t second u) (hband : s.band? s.opr.dst.p s.opr.dst.b = some bd)
    (hfits : mcFits bd s.opr n t second = true)
    (hbufs : s.mcPresent second = true ∧ mcClash s.opr second = false) : exec i s = .next u.complete :=
  h.completes (by simp [checkMc_eq hband, firstError, hfits, hbufs])

theorem Predicts.exec_outside (h : Predicts i s n t second u) (hband : s.band? s.opr.dst.p s.opr.dst.b = some bd)
    (hfits : ¬mcFits bd s.opr n t second = true) : exec i s = .next (s.raised .mvOob) :=
  h.stops (e := .mvOob) (by simp [checkMc_eq hband, firstError, hfits])

theorem Predicts.exec_missing (h : Predicts i s n t second u) (hband : s.band? s.opr.dst.p s.opr.dst.b = some bd)
    (hfits : mcFits bd s.opr n t second = true) (hbufs : s.mcPresent second = false) :
    exec i s = .next (s.raised .noReference) :=
  h.stops (e := .noReference) (by simp [checkMc_eq hband, firstError, hfits, hbufs])

theorem Predicts.exec_clash (h : Predicts i s n t second u) (hband : s.band? s.opr.dst.p s.opr.dst.b = some bd)
    (hfits : mcFits bd s.opr n t second = true) (hbufs : s.mcPresent second = true)
    (hclash : mcClash s.opr second = true) : exec i s = .next (s.refuse .badState) :=
  h.stops (e := .badState) (by simp [checkMc_eq hband, firstError, hfits, hbufs, hclash])

/-- Commands of one head check that write the same state where the destination's window fits are the same command. -/
theorem Predicts.exec_eq (hi : Predicts i s n t second u) (hj : Predicts j s n t second v)
    (hband : s.band? s.opr.dst.p s.opr.dst.b = some bd) (huv : 0 ≤ s.opr.dst.off → u = v) : exec i s = exec j s := by
  cases hcheck : checkMc (mcOps s.opr) n t.toNat (second.map BitVec.toNat) s with
  | some e => rw [hi.stops hcheck, hj.stops hcheck]
  | none =>
    have hfits : mcFits bd s.opr n t second = true := by
      rw [checkMc_eq hband, firstError_eq_none] at hcheck
      simpa using hcheck _ List.mem_cons_self
    have hoff : 0 ≤ s.opr.dst.off := by
      simp only [mcFits, Bool.and_eq_true, windowFits_iff] at hfits
      obtain ⟨⟨⟨hoff, -⟩, -⟩, -⟩ := hfits
      exact hoff
    rw [hi.completes hcheck, hj.completes hcheck, huv hoff]

end

end Sys2Proof.Machine

namespace Sys2Proof.Proofs.MotionFamily

open Sys2Proof.Machine Sys2Proof.Claims

/-- Settles O26: a single-reference command writes or adds `taps` of its reference. -/
theorem mcWritesPrediction : Obligations.McWritesPrediction := by
  intro s e he t bd hmem hband hpitch hwin hbufs
  have hexec := (predicts_single s t he).exec_ok hband (mcFits_single.mpr hwin) (mcPresent_and_apart_of_mcBuffers hbufs)
  refine ⟨_, hexec, fun r c hr hc => ?_, State.onlyBlock_mcWrite (o := mcOps s.opr) hmem hband, rfl⟩
  have hcell := State.sample_mcWrite_cell (o := mcOps s.opr) (delta := e.2.2) (val := s.predicted (mcOps s.opr) t.toNat)
    hmem hband hbufs.1 hwin.1.1 hpitch hr hc
  rwa [State.predicted_eq_taps (o := mcOps s.opr) hband] at hcell

/-- Settles O27: an averaging command leaves the sums in `mctmp` and writes or adds half of each. -/
theorem mcAvgWritesAverage : Obligations.McAvgWritesAverage := by
  intro s e he t t2 bd hmem hband hpitch hwin hwin2 hbufs sum
  have hexec := (predicts_average s t t2 he).exec_ok hband (mcFits_average.mpr ⟨hwin, hwin2⟩)
    (mcPresent_and_apart_of_mcBuffers2 hbufs)
  have hsize : e.2.1 * e.2.1 ≤ 64 := by fin_cases he <;> decide
  have hsum : s.mcSum (mcOps s.opr) t.toNat t2.toNat = sum :=
    funext₂ fun r c => State.mcSum_eq_taps (o := mcOps s.opr) hband t2 r c
  refine ⟨_, hexec, fun r c hr hc => ⟨?_, ?_⟩, fun p b k a hout => ?_, s.averageMc_frame _ _ _ _⟩
  · rw [State.complete_sample, State.averageMc, State.withMcTmp_sample, hsum]
    exact State.sample_mcWrite_cell (o := mcOps s.opr) hmem hband hbufs.1.1 hwin.1.1 hpitch hr hc
  · rw [State.complete_scratch, State.averageMc, State.withMcTmp_scratch, hsum]
    exact mcTmpOf_get _ sum hsize hr hc
  · rw [State.complete_sample, State.averageMc, State.withMcTmp_sample]
    exact State.onlyBlock_mcWrite (o := mcOps s.opr) hmem hband p b k a hout

/-- Settles O28: the head check tests the windows, then the buffers, then the destination's index. -/
theorem mcErrors : Obligations.McErrors := by
  intro s bd hband exists' raised
  refine ⟨fun e he t => ?_, fun e he t t2 => ?_⟩
  · have h := predicts_single s t he
    have hpresent : s.mcPresent none = (exists' s.opr.dst.k && exists' s.opr.k1) := Bool.and_true _
    refine ⟨fun hwin => h.exec_outside hband (mt mcFits_single.mp hwin),
      fun hwin hmiss => h.exec_missing hband (mcFits_single.mpr hwin) (hpresent.trans hmiss),
      fun hwin hall hsame => h.exec_clash hband (mcFits_single.mpr hwin) (hpresent.trans hall) ?_⟩
    simp [mcClash, hsame]
  · have h := predicts_average s t t2 he
    refine ⟨fun hwin => h.exec_outside hband (mt mcFits_average.mp hwin),
      fun hwin hmiss => h.exec_missing hband (mcFits_average.mpr hwin) hmiss,
      fun hwin hall hsame => h.exec_clash hband (mcFits_average.mpr hwin) hall ?_⟩
    simpa [mcClash] using hsame

/-- Settles O29: type 0 predicts a sample by itself, twice a sample halves back to it, and a mean of four samples is a
sample. -/
theorem fullPelAndBilinear : Obligations.FullPelAndBilinear := by
  intro s bd hmem hband hbufs old new
  have single (t : BitVec 2) (e : (BitVec 2 → Instr) × Nat × Bool) (he : e ∈ mcOf) (hnd : e.2.2 = false)
      (hpitch : e.2.1 ≤ bd.pitch) (hwin : mcWindows bd s.opr e.2.1 t) : ∃ u, exec (e.1 t) s = .next u ∧
        ∀ r c, r < e.2.1 → c < e.2.1 → new u r c = (wrap16
          (taps s s.opr.dst.p s.opr.dst.b s.opr.k1 bd.pitch (cell bd s.opr.roff1 r c) t)).toInt := by
    obtain ⟨u, hexec, hcells, -⟩ := mcWritesPrediction s e he t bd hmem hband hpitch hwin hbufs
    refine ⟨u, hexec, fun r c hr hc => ?_⟩
    have hcell := congrArg BitVec.toInt (hcells r c hr hc)
    rwa [hnd, if_neg Bool.false_ne_true, Int.zero_add] at hcell
  refine ⟨fun e he hnd hpitch hwin => ?_, fun e he hnd hpitch hwin hk hroff => ?_, fun e he hnd hpitch hwin => ?_⟩
  · obtain ⟨u, hexec, hcells⟩ := single 0 e he hnd hpitch hwin
    refine ⟨u, hexec, fun r c hr hc => (hcells r c hr hc).trans ?_⟩
    have hself : taps s s.opr.dst.p s.opr.dst.b s.opr.k1 bd.pitch (cell bd s.opr.roff1 r c) 0
        = old s.opr.k1 (cell bd s.opr.roff1 r c) := rfl
    rw [hself, wrap16_toInt]
  · have hwin2 : windowOk bd s.opr.roff2 e.2.1 (extraReach bd 0) := hroff ▸ hwin.2
    have hbufs2 : mcBuffers2 s := ⟨hbufs, hk ▸ hbufs.2⟩
    obtain ⟨u, hexec, hcells, -⟩ := mcAvgWritesAverage s e he 0 0 bd hmem hband hpitch hwin hwin2 hbufs2
    refine ⟨u, hexec, fun r c hr hc hlow hhigh => ?_⟩
    have hcell := congrArg BitVec.toInt (hcells r c hr hc).1
    rw [hnd, if_neg Bool.false_ne_true, Int.zero_add, hk, hroff] at hcell
    exact hcell.trans (half_of_twice hlow hhigh)
  · obtain ⟨u, hexec, hcells⟩ := single 3 e he hnd hpitch hwin
    refine ⟨u, hexec, fun r c hr hc => (hcells r c hr hc).trans ?_⟩
    let a := cell bd s.opr.roff1 r c
    have hmean : taps s s.opr.dst.p s.opr.dst.b s.opr.k1 bd.pitch a 3 = (old s.opr.k1 a + old s.opr.k1 (a + 1)
        + old s.opr.k1 (a + bd.pitch) + old s.opr.k1 (a + bd.pitch + 1)) / 4 := rfl
    have old_range (a : Nat) : -2 ^ 15 ≤ old s.opr.k1 a ∧ old s.opr.k1 a < 2 ^ 15 :=
      ⟨BitVec.le_toInt _, BitVec.toInt_lt⟩
    have h0 := old_range a
    have h1 := old_range (a + 1)
    have h2 := old_range (a + bd.pitch)
    have h3 := old_range (a + bd.pitch + 1)
    rw [hmean, toInt_wrap16 (by omega) (by omega)]

/-- Settles O30: the two forms of a command have one head check, and on zeros they write the same state. -/
theorem deltaOverNoDelta : Obligations.DeltaOverNoDelta := by
  intro s bd hmem hband
  have agree (n : Nat) (hpitch : n ≤ bd.pitch) (hzero : ∀ r c, r < n → c < n →
        s.sample s.opr.dst.p s.opr.dst.b s.opr.dst.k (cell bd s.opr.dst.off r c) = 0) (t t2 : BitVec 2)
      {delta nodelta : BitVec 2 → Instr} (hd : (delta, n, true) ∈ mcOf) (hn : (nodelta, n, false) ∈ mcOf)
      {avgDelta avgNodelta : BitVec 2 → BitVec 2 → Instr} (had : (avgDelta, n, true) ∈ mcAvgOf)
      (han : (avgNodelta, n, false) ∈ mcAvgOf) :
      exec (delta t) s = exec (nodelta t) s ∧ exec (avgDelta t t2) s = exec (avgNodelta t t2) s := by
    have hwrite (hoff : 0 ≤ s.opr.dst.off) (val : Nat → Nat → Int) :
        s.mcWrite (mcOps s.opr) n true val = s.mcWrite (mcOps s.opr) n false val :=
      State.mcWrite_delta_of_zero (o := mcOps s.opr) hmem hband hoff hpitch hzero
    refine ⟨(predicts_single s t hd).exec_eq (predicts_single s t hn) hband fun hoff => hwrite hoff _,
      (predicts_average s t t2 had).exec_eq (predicts_average s t t2 han) hband fun hoff => ?_⟩
    rw [State.averageMc, hwrite hoff, State.averageMc]
  exact ⟨fun hpitch hzero t t2 => agree 8 hpitch hzero t t2 (by simp [mcOf]) (by simp [mcOf]) (by simp [mcAvgOf])
      (by simp [mcAvgOf]),
    fun hpitch hzero t t2 => agree 4 hpitch hzero t t2 (by simp [mcOf]) (by simp [mcOf]) (by simp [mcAvgOf])
      (by simp [mcAvgOf])⟩

end Sys2Proof.Proofs.MotionFamily
end

section
/-! SUPPORT. DEQUANT (44_coeff_dequant.md R282) and TILESIZE (R289): the rounding term of a step, the value, and the size
field by its three forms. -/

namespace Sys2Proof.Machine

open Sys2Proof.Claims

variable {s : State} {bd : Band} {base : List (BitVec 16)} {w : BitVec 16}

/-! ### DEQUANT (R282) -/

/-- `((q ^ 1) - 1) >> 1` by the parity of `q`. -/
theorem roundTerm_eq {q : Int} (hq : 1 < q) : roundTerm q = if q % 2 = 0 then q / 2 else (q - 3) / 2 := by
  obtain ⟨k, rfl⟩ := Int.eq_ofNat_of_zero_le (show 0 ≤ q by omega)
  have hxor : k ^^^ 1 = if k % 2 = 0 then k + 1 else k - 1 := by
    split_ifs with heven
    · exact Nat.xor_one_of_even (Nat.even_iff.mpr heven)
    · exact Nat.xor_one_of_odd (Nat.odd_iff.mpr (by omega))
  rw [roundTerm, Int.toNat_natCast, hxor]
  split_ifs <;> omega

@[simp] theorem wrap32_toInt (v : Coef) : wrap32 v.toInt = v := BitVec.ofInt_toInt

/-- The value for a step `q`, in the words of the statement. -/
theorem dequantWith_toInt (q : Int) (val : Coef) : (dequantWith q val.toInt).toInt =
    if 1 < q then
      (wrap32 (val.toInt * q + (if 0 < val.toInt then roundTerm q else -roundTerm q))).toInt
    else val.toInt := by
  unfold dequantWith
  split_ifs with hq hval
  · rw [fsign, if_pos hval, Int.one_mul]
  · rw [fsign, if_neg hval, Int.neg_one_mul]
  · rw [wrap32_toInt]

theorem dequantStep_eq {pos : Nat} (hw : base[pos]? = some w) (quant : Int) :
    dequantStep base pos quant = (w.toNat : Int) * quant / 512 := by
  rw [dequantStep, hw]
  rfl

theorem dequant_ok {intra : Bool} {pos : Nat} (hbase : bd.base intra = some base) (hpos : pos < bd.blkSize * bd.blkSize)
    (val quant : Int) : dequant bd intra pos val quant = .ok (dequantWith (dequantStep base pos quant) val) := by
  simp [dequant, hbase, hpos]

theorem dequant_refuses {intra : Bool} {pos : Nat} (h : bd.base intra = none ∨ bd.blkSize * bd.blkSize ≤ pos)
    (val quant : Int) : dequant bd intra pos val quant = .error .badState := by
  unfold dequant
  cases hbase : bd.base intra with
  | none => rfl
  | some base => exact if_neg (Nat.not_lt.mpr (h.resolve_left (by simp [hbase])))

theorem State.bandReady_of_ready {p b : Nat} (h : ready s p b bd) : s.bandReady p b = true := by
  obtain ⟨hband, halloc, hbuf⟩ := h
  simp [State.bandReady, State.hasBand, hband, halloc, hbuf]

theorem exec_dequant_ok {v : Coef} (h : ready s s.opr.dst.p s.opr.dst.b bd)
    (hv : dequant bd s.opr.intra s.opr.pos s.opr.val.toInt s.opr.quant = .ok v) :
    exec .dequant s = .next { s with res := v.signExtend 64, err := .none } := by
  have hcheck : checkDequant s.opr s = none := by
    simp [checkDequant, checkReady, orBadState, State.bandReady_of_ready h, h.1, hv]
  have hbody : dequantToRes s.opr s = .ok () { s with res := v.signExtend 64 } := by
    simp [dequantToRes, getBand, M.bind_apply, h.1, liftExcept, hv]
  exact command_ok rfl hcheck hbody

theorem exec_dequant_refuses (h : ready s s.opr.dst.p s.opr.dst.b bd)
    (hv : dequant bd s.opr.intra s.opr.pos s.opr.val.toInt s.opr.quant = .error .badState) :
    exec .dequant s = .next { s with err := .badState } := by
  have hcheck : checkDequant s.opr s = some .badState := by
    simp [checkDequant, checkReady, orBadState, State.bandReady_of_ready h, h.1, hv]
  exact command_headError rfl hcheck

/-- A signed value of 32 bits is the same in 64. -/
theorem signExtend_coef (v : Coef) : v.signExtend 64 = BitVec.ofInt 64 v.toInt := rfl

/-! ### TILESIZE (R289) -/

theorem readFlag_of_streamHas (hb : s.bound = true) (hs : streamHas s 1) :
    readFlag s = .ok (decide (field s 0 1 = 1)) (s.moved 1) :=
  M.bind_ok (readBits_of_streamHas hb Nat.one_pos hs)

theorem readBits_moved {k n m : Nat} (hb : s.bound = true) (hs : streamHas s m) (hn : 0 < n) (hk : k + n ≤ m) :
    readBits n (s.moved k) = .ok (field s k n) (s.moved (k + n)) := by
  rw [readBits_of_streamHas (s := s.moved k) hb hn (streamHas_moved hs hk), field]
  simp only [State.moved, Nat.add_assoc]

theorem tileSizeField_none (hb : s.bound = true) (hs : streamHas s 1) (hflag : field s 0 1 = 0) :
    tileSizeField s = .ok 0 (s.moved 1) := by
  rw [tileSizeField, M.bind_ok (readFlag_of_streamHas hb hs), hflag]
  rfl

theorem tileSizeField_short (hb : s.bound = true) (hs : streamHas s 9) (hflag : field s 0 1 = 1)
    (hsize : field s 1 8 ≠ 255) : tileSizeField s = .ok (field s 1 8) (s.moved 9) := by
  have hread := readBits_moved (k := 1) (n := 8) hb hs (by decide) (by decide)
  rw [tileSizeField, M.bind_ok (readFlag_of_streamHas hb fun k hk => hs k (by omega)), hflag, decide_eq_true rfl, if_pos rfl,
    M.bind_ok hread, if_neg hsize]
  rfl

theorem tileSizeField_long (hb : s.bound = true) (hs : streamHas s 33) (hflag : field s 0 1 = 1)
    (hsize : field s 1 8 = 255) : tileSizeField s = .ok (field s 9 24) (s.moved 33) := by
  have hread := readBits_moved (k := 1) (n := 8) hb hs (by decide) (by decide)
  rw [tileSizeField, M.bind_ok (readFlag_of_streamHas hb fun k hk => hs k (by omega)), hflag, decide_eq_true rfl, if_pos rfl,
    M.bind_ok hread, if_pos hsize]
  exact readBits_moved (k := 9) (n := 24) hb hs (by decide) (by decide)

/-- TILESIZE whose size field is `n` bits long: it aligns the cursor after them. -/
theorem exec_tilesize_ok {n len : Nat} (hb : s.bound = true) (hfield : tileSizeField s = .ok len (s.moved n))
    (hin : within s (aligned (s.br.index + n))) :
    exec .tilesize s = .next { s with
      res := BitVec.ofNat 64 len, br := atBit s (aligned (s.br.index + n)), err := .none } := by
  have hsize : readTileSize s = .ok len { s with br := atBit s (aligned (s.br.index + n)) } := by
    rw [readTileSize, M.bind_ok hfield, M.bind_ok (alignBits_ok (s := s.moved n) hb hin)]
    rfl
  have hbody : (readTileSize >>= fun len => setRes (BitVec.ofNat 64 len)) s = .ok () { s with
      res := BitVec.ofNat 64 len, br := atBit s (aligned (s.br.index + n)) } := M.bind_ok hsize
  exact command_ok rfl (needStream_of_bound hb) hbody

end Sys2Proof.Machine

namespace Sys2Proof.Proofs.CoeffFamily

open Sys2Proof.Machine Sys2Proof.Claims

/-- Settles O53: each pair undoes itself, so the pairs in reverse undo the list. -/
theorem correctionRoundTrip : Obligations.CorrectionRoundTrip := correctAll_reverse

/-- Settles O36: the size field by its flag and its escape, then the alignment. -/
theorem tileSizeValue : Obligations.TileSizeValue := fun _ hb hs =>
  ⟨fun hflag hin => exec_tilesize_ok hb (tileSizeField_none hb hs hflag) hin,
    fun hs hflag hsize hin => exec_tilesize_ok hb (tileSizeField_short hb hs hflag hsize) hin,
    fun hs hflag hsize hin => exec_tilesize_ok hb (tileSizeField_long hb hs hflag hsize) hin⟩

/-- Settles O31: the head check finds the base table and the position, or refuses; the value is that of the step. -/
theorem dequantValue : Obligations.DequantValue := by
  intro s bd hready
  refine ⟨fun base w hbase hpos hw => ?_, fun h => exec_dequant_refuses hready (dequant_refuses h _ _)⟩
  intro q val half
  rw [exec_dequant_ok hready (dequant_ok hbase hpos _ _), dequantStep_eq hw, signExtend_coef, dequantWith_toInt]
  by_cases hq : 1 < q
  · simp only [val, half, if_pos hq, ← roundTerm_eq hq, q]
  · simp only [val, if_neg hq, q]

end Sys2Proof.Proofs.CoeffFamily
end

section
/-! SUPPORT. DCBLK and DECTILEBLKS (44_coeff_dequant.md R283, R284, R286, R287): the macroblock context, the prediction
of a block by the macroblock's type, and the block that takes its DC transform. -/

namespace Sys2Proof.Machine

open Sys2Proof.Claims

variable {s s' : State} {p b t m blk n : Nat} {bd : Band} {mb : Mb} {k1 k2 : Fin 4} {off : Nat} {delta : Bool}

/-! ### Bands, tiles and macroblocks that exist -/

theorem getBand_ok (h : s.band? p b = some bd) : getBand p b s = .ok bd s := by
  unfold getBand
  rw [h]
  rfl

theorem getTile_ok {tl : Tile} (h : s.tile? p b t = some tl) : getTile p b t s = .ok tl s := by
  unfold getTile
  rw [h]
  rfl

theorem getMb_ok (h : s.mb? p b t m = some mb) : getMb p b t m s = .ok mb s := by
  unfold getMb
  rw [h]
  rfl

theorem State.mbOpt_of_tile {tl : Tile} (h : s.tile? p b t = some tl) : s.mb? p b t m = tl.mbs[m]? := by
  rw [State.mb?, h]

theorem checkBlock_ok (h : ready s p b bd) (hmb : s.mb? p b t m = some mb) (hblk : blk < 4) :
    checkBlock p b t m blk s = none :=
  orBadState_eq_none.mpr (by simp [State.bandReady_of_ready h, hmb, hblk])

theorem checkTile_ok {tl : Tile} (h : ready s p b bd) (htl : s.tile? p b t = some tl) : checkTile p b t s = none :=
  orBadState_eq_none.mpr (by simp [State.bandReady_of_ready h, htl])

theorem legalPlane_of_ne {p : BitVec 2} (hp : p ≠ 3) : legalPlane p = true := decide_eq_true (by bv_omega)

theorem blockFits_of_blockIn (h : blockIn bd off n) : blockFits off bd.pitch n bd.bufsize = true :=
  blockFits_iff.mpr ⟨Int.natCast_nonneg off, h⟩

theorem State.bandSize_eq (h : s.band? p b = some bd) : s.bandSize p b = bd.bufsize := by
  rw [State.bandSize, h]

theorem checkBlockWrite_of_ready (h : ready s p b bd) (hin : blockIn bd off n) :
    checkBlockWrite ⟨p, b, s.rot.dstBuf, off⟩ bd.pitch n s = none := by
  obtain ⟨hband, -, hbuf⟩ := h
  refine checkBlockWrite_ok (by simp [hasTarget, State.hasBand, hband, hbuf]) ?_
  rw [State.bandSize_eq hband]
  exact blockFits_of_blockIn hin

theorem sub_ok {check : State → Option ErrKind} {body : M Unit} (hc : check s = none) : sub check body s = body s := by
  rw [sub, hc]

/-! ### The macroblock context (R283) -/

theorem mbCtx_ok (h : vectorsFit bd mb = true) : mbCtx bd mb s = .ok (mbContext s.params.codec bd mb) s := by
  rw [mbCtx, h]
  rfl

theorem vectorsFit_intra (h : mb.type = 0) : vectorsFit bd mb = true := by simp [vectorsFit, h]

/-! ### Prediction (R284) -/

/-- Where the reference of the block at `off` lies for the vector `(vx, vy)`. -/
def refOffset (bd : Band) (off : Nat) (vx vy : Int) : Int :=
  (off : Int) + halve bd.isHalfpel vy * bd.pitch + halve bd.isHalfpel vx

/-- The operands of a block predicted by its forward vector. -/
def forwardOps (s : State) (p b off : Nat) (bd : Band) (mb : Mb) (k1 : Fin 4) : McOps :=
  ⟨p, b, s.rot.dstBuf, off, k1, refOffset bd off mb.mvX mb.mvY, 0, 0⟩

/-- The operands of a block predicted by its backward vector. -/
def backwardOps (s : State) (p b off : Nat) (bd : Band) (mb : Mb) (k2 : Fin 4) : McOps :=
  ⟨p, b, s.rot.dstBuf, off, k2, refOffset bd off mb.bMvX mb.bMvY, 0, 0⟩

/-- The operands of a block predicted by both its vectors. -/
def bothOps (s : State) (p b off : Nat) (bd : Band) (mb : Mb) (k1 k2 : Fin 4) : McOps :=
  ⟨p, b, s.rot.dstBuf, off, k1, refOffset bd off mb.mvX mb.mvY, k2, refOffset bd off mb.bMvX mb.bMvY⟩

/-- The interpolation type of a macroblock's forward vector. -/
abbrev forwardType (bd : Band) (mb : Mb) : Nat := mcType bd.isHalfpel mb.mvX mb.mvY

/-- The interpolation type of a macroblock's backward vector. -/
abbrev backwardType (bd : Band) (mb : Mb) : Nat := mcType bd.isHalfpel mb.bMvX mb.bMvY

theorem predictBlock_forward (htype : mb.type = 1) (href : bd.refBuf = some k1)
    (hcheck : checkMc (forwardOps s p b off bd mb k1) bd.blkSize (forwardType bd mb) none s = none) (codec : Codec) :
    predictBlock p b bd (mbContext codec bd mb) off delta s =
      .ok () (s.mcWrite (forwardOps s p b off bd mb k1) bd.blkSize delta
        (s.predicted (forwardOps s p b off bd mb k1) (forwardType bd mb))) := by
  simp [predictBlock, mbContext, htype, href, M.bind_apply, needRef]
  exact sub_ok hcheck

theorem predictBlock_backward (htype : mb.type = 2) (href : bd.bRefBuf = some k2)
    (hcheck : checkMc (backwardOps s p b off bd mb k2) bd.blkSize (backwardType bd mb) none s = none) (codec : Codec) :
    predictBlock p b bd (mbContext codec bd mb) off delta s =
      .ok () (s.mcWrite (backwardOps s p b off bd mb k2) bd.blkSize delta
        (s.predicted (backwardOps s p b off bd mb k2) (backwardType bd mb))) := by
  simp [predictBlock, mbContext, htype, href, M.bind_apply, needRef]
  exact sub_ok hcheck

theorem predictBlock_both (htype : mb.type = 3) (href : bd.refBuf = some k1) (hbref : bd.bRefBuf = some k2)
    (hcheck : checkMc (bothOps s p b off bd mb k1 k2) bd.blkSize (forwardType bd mb) (some (backwardType bd mb)) s = none)
    (codec : Codec) :
    let sum := s.mcSum (bothOps s p b off bd mb k1 k2) (forwardType bd mb) (backwardType bd mb)
    predictBlock p b bd (mbContext codec bd mb) off delta s =
      .ok () ((s.withMcTmp bd.blkSize sum).mcWrite (bothOps s p b off bd mb k1 k2) bd.blkSize delta
        fun r c => (sum r c).toInt / 2) := by
  simp [predictBlock, mbContext, htype, href, hbref, M.bind_apply, needRef]
  exact sub_ok hcheck

/-! ### DCBLK (R286) -/

/-- The body of DCBLK once its macroblock, its vectors and its window are known to be right. -/
theorem fillBlock_eq (hband : s.band? p b = some bd) (hmb : s.mb? p b t m = some mb) (hfit : vectorsFit bd mb = true)
    (hin : blockIn bd (blockOffset bd mb blk) bd.blkSize) :
    fillBlock p b t m blk s =
      (if mb.type = 0 then
        match bd.dcTransform with
        | none => .ok () s
        | some tx => sub (checkBlockWrite ⟨p, b, s.rot.dstBuf, (blockOffset bd mb blk : Nat)⟩ bd.pitch tx.size)
            (runDcTx tx s.scratch.prevDc ⟨p, b, s.rot.dstBuf, (blockOffset bd mb blk : Nat)⟩ bd.pitch) s
      else predictBlock p b bd (mbContext s.params.codec bd mb) (blockOffset bd mb blk) false s) := by
  rw [fillBlock, M.bind_ok (getBand_ok hband), M.bind_ok (getMb_ok hmb), M.bind_ok (mbCtx_ok hfit)]
  simp only [blockFits_of_blockIn hin, M.bind_apply, Bool.not_true, raiseIf_false]
  have hintra : (mbContext s.params.codec bd mb).intra = decide (mb.type = 0) := rfl
  rw [hintra]
  by_cases htype : mb.type = 0
  · simp only [htype, decide_true, if_true]
    cases bd.dcTransform <;> rfl
  · simp only [htype, decide_false, Bool.false_eq_true, if_false]

theorem fillBlock_dc {tx : DcTx} (h : ready s p b bd) (hmb : s.mb? p b t m = some mb) (htype : mb.type = 0)
    (hdc : bd.dcTransform = some tx) (hin : blockIn bd (blockOffset bd mb blk) bd.blkSize)
    (htx : blockIn bd (blockOffset bd mb blk) tx.size) :
    fillBlock p b t m blk s = .ok () (s.writeBlock ⟨p, b, s.rot.dstBuf, (blockOffset bd mb blk : Nat)⟩ bd.pitch tx.size
      (dcKernel tx s.scratch.prevDc)) := by
  rw [fillBlock_eq h.1 hmb (vectorsFit_intra htype) hin, if_pos htype, hdc]
  exact sub_ok (checkBlockWrite_of_ready h htx)

theorem exec_dcblk_ok {p b : BitVec 2} (hp : p ≠ 3) (h : ready s p.toNat b.toNat bd)
    (hmb : s.mb? p.toNat b.toNat s.opr.t s.opr.m = some mb) (hblk : s.opr.blk < 4)
    (hbody : fillBlock p.toNat b.toNat s.opr.t s.opr.m s.opr.blk s = .ok () s') :
    exec (.dcblk p b) s = .next s'.complete :=
  command_ok (legalPlane_of_ne hp) (checkBlock_ok h hmb hblk) hbody

/-! ### DECTILEBLKS (R287) -/

theorem codedOrNot_uncoded (h : ready s p b bd) (hmb : s.mb? p b t m = some mb) (hblk : blk < 4)
    (hcbp : mb.cbp.getLsbD blk = false) : codedOrNot p b t m mb blk s = fillBlock p b t m blk s := by
  rw [codedOrNot, hcbp]
  exact sub_ok (checkBlock_ok h hmb hblk)

theorem forEach_singleton {α : Type} (f : α → M Unit) (a : α) : forEach f [a] s = f a s := by
  rw [forEach, M.bind_apply]
  cases f a s <;> rfl

theorem blocksPerMb_one (h : bd.mbSize = bd.blkSize) : bd.blocksPerMb = 1 := if_neg (not_not.mpr h)

/-- A macroblock of one block that is not coded. -/
theorem decodeMb_uncoded (h : ready s p b bd) (hmb : s.mb? p b t m = some mb) (hfit : vectorsFit bd mb = true)
    (hone : bd.mbSize = bd.blkSize) (hcbp : mb.cbp.getLsbD 0 = false) :
    decodeMb p b t m s = fillBlock p b t m 0 s := by
  rw [decodeMb, M.bind_ok (getBand_ok h.1), M.bind_ok (getMb_ok hmb), M.bind_ok (mbCtx_ok hfit), blocksPerMb_one hone]
  exact (forEach_singleton _ _).trans (codedOrNot_uncoded h hmb (by decide) hcbp)

/-- `prev_dc` is 0 at the beginning of a tile. -/
def State.clearDc (s : State) : State := { s with scratch := { s.scratch with prevDc := 0 } }

/-- The engine with its cursor at bit `i`. -/
def State.toBit (s : State) (i : Nat) : State := { s with br := atBit s i }

theorem alignBits_toBit (hb : s.bound = true) (hin : within s (aligned s.br.index)) :
    alignBits s = .ok () (s.toBit (aligned s.br.index)) := alignBits_ok hb hin

/-- A tile of one macroblock. -/
theorem decodeTileBlocks_one {tl : Tile} (htl : s.tile? p b t = some tl) (hone : tl.mbs = [mb])
    (hmb : decodeMb p b t 0 s.clearDc = .ok () s') (hb : s'.bound = true) (hin : within s' (aligned s'.br.index)) :
    decodeTileBlocks p b t s = .ok () (s'.toBit (aligned s'.br.index)) := by
  have hclear : updScratch (fun c => { c with prevDc := 0 }) s = .ok () s.clearDc := rfl
  have hloop : forEach (decodeMb p b t) (List.range tl.mbs.length) s.clearDc = .ok () s' := by
    rw [hone]
    exact (forEach_singleton _ _).trans hmb
  rw [decodeTileBlocks, M.bind_ok hclear, M.bind_ok (getTile_ok (s := s.clearDc) htl), M.bind_ok hloop]
  exact alignBits_toBit hb hin

theorem finally_ok {m : M Unit} {after : State → State} (h : m s = .ok () s') :
    finally' m after s = .ok () (after s') := by
  rw [finally', h]

theorem exec_dectileblks_ok {p b : BitVec 2} {tl : Tile} (hp : p ≠ 3) (h : ready s p.toNat b.toNat bd)
    (htl : s.tile? p.toNat b.toNat s.opr.t = some tl)
    (hbody : decodeTileBlocks p.toNat b.toNat s.opr.t s = .ok () s') :
    exec (.dectileblks p b) s = .next s'.releaseScratch.complete :=
  command_ok (legalPlane_of_ne hp) (checkTile_ok h htl) (finally_ok hbody)

/-- A kernel that stayed in 32 bits draws nothing, so writing its output changes samples alone. -/
theorem State.writeBlock_of_ok (d : Dst) (pitch n : Nat) {o : KernelOut} (hok : kernelOk o = true) :
    ∃ arena, s.writeBlock d pitch n o = { s with mem := { s.mem with arena := arena } } := by
  refine ⟨(s.writeBlock d pitch n o).mem.arena, ?_⟩
  simp [State.writeBlock, State.setBuffer, hok]

theorem dcKernel_ok (tx : DcTx) {dc : Coef} (h : dc.toInt ≠ 2 ^ 31 - 1) : kernelOk (dcKernel tx dc) = true := by
  obtain ⟨f, hblock, hentry⟩ := dcKernel_isBlock tx dc
  refine hblock.kernelOk_iff.mpr fun r c hr hc => ?_
  rw [hentry r c hr hc]
  exact dcEntry_ok tx h r c

/-- The samples of a block that takes its DC transform. -/
theorem State.sample_writeBlock_dc {d : Dst} {pitch : Nat} {tx : DcTx} {dc : Coef} (hmem : s.MemoryOk)
    (hbuf : s.hasBuffer d.p d.b d.k = true) (hoff : 0 ≤ d.off) (hpitch : tx.size ≤ pitch) (h : dc.toInt ≠ 2 ^ 31 - 1)
    {r c : Nat} (hr : r < tx.size) (hc : c < tx.size) :
    (s.writeBlock d pitch tx.size (dcKernel tx dc)).sample d.p d.b d.k (blockAddr d.off pitch r c)
      = wrap16 (dcClosed tx dc.toInt r c) := by
  obtain ⟨f, hblock, hentry⟩ := dcKernel_isBlock tx dc
  rw [hblock.sample_writeBlock hmem hbuf hoff hpitch (dcKernel_ok tx h) hr hc, hentry r c hr hc, dcEntry_val]

theorem dcClosed_zero (tx : DcTx) (r c : Nat) : dcClosed tx 0 r c = 0 := by
  cases tx <;> simp [dcClosed]

end Sys2Proof.Machine

namespace Sys2Proof.Proofs.CoeffFamily

open Sys2Proof.Machine Sys2Proof.Claims

/-- Settles O33: an intra block writes its DC transform or nothing, and the other types run their prediction. -/
theorem dcBlockFills : Obligations.DcBlockFills := by
  intro p b s bd mb hp hready hmb hblk hin off dst at' t1 t2
  have fills (s' : State) : fillBlock p.toNat b.toNat s.opr.t s.opr.m s.opr.blk s = .ok () s' →
      exec (.dcblk p b) s = .next s'.complete := exec_dcblk_ok hp hready hmb hblk
  refine ⟨fun htype tx hdc htx => fills _ (fillBlock_dc hready hmb htype hdc hin htx), fun htype hdc => fills s ?_,
    ?_, ?_, ?_⟩
  · rw [fillBlock_eq hready.1 hmb (vectorsFit_intra htype) hin, if_pos htype, hdc]
  · intro k1 htype href hfit o hcheck
    refine fills _ ?_
    rw [fillBlock_eq hready.1 hmb hfit hin, if_neg (by simp [htype])]
    exact predictBlock_forward htype href hcheck _
  · intro k2 htype href hfit o hcheck
    refine fills _ ?_
    rw [fillBlock_eq hready.1 hmb hfit hin, if_neg (by simp [htype])]
    exact predictBlock_backward htype href hcheck _
  · intro k1 k2 htype href hbref hfit o hcheck
    refine fills _ ?_
    rw [fillBlock_eq hready.1 hmb hfit hin, if_neg (by simp [htype])]
    exact predictBlock_both htype href hbref hcheck _

/-- Settles O34: `prev_dc` is 0 in a tile's first block, so its DC transform is a block of zeros. -/
theorem tileBlocksFillZero : Obligations.TileBlocksFillZero := by
  intro p b s bd tl mb tx hp hmem hb hready htl hone htype hcbp hsize hdc hblk hpitch hin haligned
  have hmb : s.mb? p.toNat b.toNat s.opr.t 0 = some mb := by rw [State.mbOpt_of_tile htl, hone]; rfl
  have hoff : blockOffset bd mb 0 = mb.bufOffs := by simp [blockOffset]
  rw [← hoff] at hin ⊢
  let d : Dst := ⟨p.toNat, b.toNat, s.rot.dstBuf, (blockOffset bd mb 0 : Nat)⟩
  let w := s.clearDc.writeBlock d bd.pitch tx.size (dcKernel tx 0)
  have hfill : fillBlock p.toNat b.toNat s.opr.t 0 0 s.clearDc = .ok () w :=
    fillBlock_dc (s := s.clearDc) hready hmb htype hdc (hblk ▸ hin) hin
  have hdecode := (decodeMb_uncoded (s := s.clearDc) hready hmb (vectorsFit_intra htype) hsize (by simp [hcbp])).trans hfill
  have hzero : (0 : Coef).toInt ≠ 2 ^ 31 - 1 := by decide
  obtain ⟨f, hblock, -⟩ := dcKernel_isBlock tx 0
  have honly : onlyBlock s.clearDc w p.toNat b.toNat s.rot.dstBuf (blockOffset bd mb 0 : Nat) bd.pitch tx.size :=
    hblock.onlyBlock_writeBlock (s := s.clearDc) (d := d) hmem
  refine ⟨(w.toBit (aligned s.br.index)).releaseScratch.complete,
    exec_dectileblks_ok hp hready htl (decodeTileBlocks_one htl hone hdecode hb haligned), fun r c hr hc => ?_, honly, ?_⟩
  · have hsample := State.sample_writeBlock_dc (s := s.clearDc) (d := d) hmem hready.2.2 (Int.natCast_nonneg _) hpitch
      hzero hr hc
    exact hsample.trans (congrArg wrap16 (dcClosed_zero tx r c))
  · obtain ⟨arena, harena⟩ : ∃ arena, w = { s.clearDc with mem := { s.mem with arena := arena } } :=
      s.clearDc.writeBlock_of_ok d bd.pitch tx.size (dcKernel_ok tx hzero)
    rw [harena]
    rfl

end Sys2Proof.Proofs.CoeffFamily
end

section
/-! SUPPORT. The descriptors of tiles and macroblocks under writes: one write after another, what a write leaves of the
other descriptors, and what the programs of a tile read of them. -/

namespace Sys2Proof.Machine

open Sys2Proof.Claims

variable {s : State} {p b t m : Nat} {bd : Band} {tl : Tile} {mb : Mb}

/-! ### Writes of lists -/

theorem modify_congr {α : Type} {l : List α} {i : Nat} {f g : α → α} (h : ∀ a, l[i]? = some a → f a = g a) :
    l.modify i f = l.modify i g := by
  refine List.ext_getElem? fun j => ?_
  rw [List.getElem?_modify, List.getElem?_modify]
  by_cases hj : i = j
  · subst hj
    cases hget : l[i]? with
    | none => rfl
    | some a => simp [h a hget]
  · simp [hj]

/-- Writing each of the first `n` places in turn. -/
theorem foldl_modify_range {α : Type} (f : Nat → α → α) (l : List α) (n : Nat) :
    (List.range n).foldl (fun l i => l.modify i (f i)) l = l.mapIdx fun i a => if i < n then f i a else a := by
  induction n with
  | zero => exact List.ext_getElem? fun j => by simp
  | succ n ih =>
    rw [List.range_succ, List.foldl_append, ih]
    refine List.ext_getElem? fun j => ?_
    simp only [List.foldl_cons, List.foldl_nil, List.getElem?_modify, List.getElem?_mapIdx]
    cases l[j]? with
    | none => simp
    | some a =>
      by_cases hj : n = j
      · subst hj
        simp
      · simp [hj, show j < n + 1 ↔ j < n by omega]

/-! ### Writes of a band -/

theorem State.updBand_congr {f g : Band → Band} (h : ∀ bd, s.band? p b = some bd → f bd = g bd) :
    s.updBand p b f = s.updBand p b g := by
  have hplanes : modifyPlane s.planes p (fun pl => { pl with bands := pl.bands.modify b f })
      = modifyPlane s.planes p (fun pl => { pl with bands := pl.bands.modify b g }) := by
    refine Vector.ext fun i hi => ?_
    simp only [modifyPlane, Vector.getElem_mapIdx]
    split_ifs with hip
    · subst hip
      have hget : ∀ bd, s.planes[i].bands[b]? = some bd → f bd = g bd := fun bd hbd =>
        h bd (by simpa [State.band?, State.plane?, Vector.getElem?_eq_getElem hi] using hbd)
      rw [modify_congr hget]
    · rfl
  unfold State.updBand State.updPlane
  rw [hplanes]

/-- Every band after a write of one of them. -/
theorem State.updBand_bandOpt_all (s : State) (p b : Nat) (f : Band → Band) (p' b' : Nat) :
    (s.updBand p b f).band? p' b' = (s.band? p' b').map fun bd => if p' = p ∧ b' = b then f bd else bd := by
  simp only [State.band?, State.plane?, State.updBand, State.updPlane, modifyPlane, Vector.getElem?_mapIdx]
  cases s.planes[p']? with
  | none => rfl
  | some pl =>
    by_cases hp : p' = p
    · by_cases hb : b' = b
      · simp [hp, hb]
      · simp [hp, hb, Ne.symm hb]
    · simp [hp]

/-! ### Writes of a tile -/

theorem State.updTile_congr {f g : Tile → Tile} (h : ∀ tl, s.tile? p b t = some tl → f tl = g tl) :
    s.updTile p b t f = s.updTile p b t g := by
  refine State.updBand_congr fun bd hbd => ?_
  rw [modify_congr fun tl htl => h tl (by rw [State.tile?, hbd]; exact htl)]

theorem State.updTile_updTile (s : State) (p b t : Nat) (f g : Tile → Tile) :
    (s.updTile p b t f).updTile p b t g = s.updTile p b t (g ∘ f) := by
  rw [State.updTile, State.updTile, State.updBand_updBand, State.updTile]
  refine State.updBand_congr fun bd _ => ?_
  simp [List.modify_modify_eq]

/-- Writing to a tile what it holds changes nothing. -/
theorem State.updTile_self (htl : s.tile? p b t = some tl) : (s.updTile p b t fun _ => tl) = s := by
  unfold State.tile? at htl
  cases hband : s.band? p b with
  | none => simp [hband] at htl
  | some bd =>
    rw [hband] at htl
    refine (State.updBand_congr (g := fun _ => bd) fun bd' hbd' => ?_).trans (State.updBand_self hband)
    obtain rfl : bd' = bd := Option.some.inj (hbd'.symm.trans hband)
    rw [modify_const_of_getElem? htl]

/-- Every band after a write of a tile keeps what is not its tiles. -/
theorem State.updTile_bandOpt_all (s : State) (p b t : Nat) (f : Tile → Tile) (p' b' : Nat) :
    ∃ tiles : Band → List Tile, (s.updTile p b t f).band? p' b' = (s.band? p' b').map fun bd =>
      { bd with tiles := tiles bd } := by
  refine ⟨fun bd => if p' = p ∧ b' = b then bd.tiles.modify t f else bd.tiles, ?_⟩
  rw [State.updTile, State.updBand_bandOpt_all]
  congr 1
  funext bd
  split_ifs <;> rfl

theorem State.updTile_tileOpt (s : State) (p b t : Nat) (f : Tile → Tile) :
    (s.updTile p b t f).tile? p b t = (s.tile? p b t).map f := by
  simp only [State.tile?, State.updTile, State.updBand_bandOpt]
  cases s.band? p b with
  | none => rfl
  | some bd => simp

/-- A write of a tile of another band. -/
theorem State.updTile_mbOpt_other {p' b' : Nat} (h : p' ≠ p ∨ b' ≠ b) (f : Tile → Tile) (t' m : Nat) :
    (s.updTile p b t f).mb? p' b' t' m = s.mb? p' b' t' m := by
  simp only [State.mb?, State.tile?, State.updTile, State.updBand_bandOpt_all]
  cases s.band? p' b' with
  | none => rfl
  | some bd => simp [show ¬(p' = p ∧ b' = b) by tauto]

theorem State.mvScale_updTile (f : Tile → Tile) : (s.updTile p b t f).mvScale bd = vectorScale s bd := by
  obtain ⟨tiles, hband⟩ := s.updTile_bandOpt_all p b t f 0 0
  rw [State.mvScale, vectorScale, hband]
  cases s.band? 0 0 <;> rfl

theorem State.bandPitch_updTile (f : Tile → Tile) (p' b' : Nat) :
    (s.updTile p b t f).bandPitch p' b' = s.bandPitch p' b' := by
  obtain ⟨tiles, hband⟩ := s.updTile_bandOpt_all p b t f p' b'
  rw [State.bandPitch, State.bandPitch, hband]
  cases s.band? p' b' <;> rfl

/-- The head check of a prediction asks nothing of the tiles. -/
theorem checkMc_updTile (f : Tile → Tile) (o : McOps) (n ty : Nat) (ty2 : Option Nat) :
    checkMc o n ty ty2 (s.updTile p b t f) = checkMc o n ty ty2 s := by
  obtain ⟨tiles, hband⟩ := s.updTile_bandOpt_all p b t f o.p o.b
  rw [checkMc, checkMc, hband]
  cases s.band? o.p o.b <;> rfl

/-- Nor does the prediction. -/
theorem State.predicted_updTile (f : Tile → Tile) (o : McOps) (ty : Nat) :
    (s.updTile p b t f).predicted o ty = s.predicted o ty := by
  funext r c
  rw [State.predicted, State.predicted, State.bandPitch_updTile]
  rfl

theorem State.mcWrite_updTile (f : Tile → Tile) (o : McOps) (n : Nat) (delta : Bool) (val : Nat → Nat → Int) :
    (s.updTile p b t f).mcWrite o n delta val = (s.mcWrite o n delta val).updTile p b t f := by
  rw [State.mcWrite, State.bandPitch_updTile]
  rfl

/-! ### Writes of a macroblock -/

theorem State.updMb_updMb (s : State) (p b t m : Nat) (f g : Mb → Mb) :
    (s.updMb p b t m f).updMb p b t m g = s.updMb p b t m (g ∘ f) := by
  rw [State.updMb, State.updMb, State.updTile_updTile, State.updMb]
  refine State.updTile_congr fun tl _ => ?_
  simp [List.modify_modify_eq]

theorem State.updMb_id (s : State) (p b t m : Nat) : s.updMb p b t m id = s := by
  have htile : ∀ tl : Tile, { tl with mbs := tl.mbs.modify m id } = tl := fun tl => by rw [List.modify_id]
  have hband : ∀ bd : Band, { bd with tiles := bd.tiles.modify t fun tl => { tl with mbs := tl.mbs.modify m id } } = bd :=
    fun bd => by
      rw [funext htile]
      show { bd with tiles := bd.tiles.modify t id } = bd
      rw [List.modify_id]
  have hplanes : modifyPlane s.planes p (fun pl => { pl with bands := pl.bands.modify b id }) = s.planes :=
    Vector.ext fun i hi => by
      simp only [modifyPlane, Vector.getElem_mapIdx, List.modify_id]
      split_ifs <;> rfl
  rw [State.updMb, State.updTile, funext hband, State.updBand, State.updPlane]
  show { s with planes := modifyPlane s.planes p fun pl => { pl with bands := pl.bands.modify b id } } = s
  rw [hplanes]

theorem State.updMb_mbOpt (s : State) (p b t m : Nat) (f : Mb → Mb) :
    (s.updMb p b t m f).mb? p b t m = (s.mb? p b t m).map f := by
  rw [State.mb?, State.updMb, State.updTile_tileOpt, State.mb?]
  cases s.tile? p b t with
  | none => rfl
  | some tl => simp

theorem updMb_apply (f : Mb → Mb) : updMb p b t m f s = .ok () (s.updMb p b t m f) := rfl

/-! ### The reference macroblock -/

theorem refMb_ok (h : ∀ i, tl.refTile = some i → (s.mb? 0 0 i m).isSome = true) : refMb tl m s = .ok (refOf s tl m) s := by
  unfold refMb refOf
  cases htile : tl.refTile with
  | none => rfl
  | some i =>
    obtain ⟨ref, href⟩ := Option.isSome_iff_exists.mp (h i htile)
    simp [M.bind_apply, getMb_ok href, href]

theorem inheritedMv_eq (mvs mv : Int) : inheritedMv mvs mv = inherited mvs mv := by
  unfold inheritedMv scaleMv inherited
  by_cases h0 : mvs = 0
  · simp only [h0, ne_eq, not_true_eq_false, if_true, if_false]
  · simp only [h0, ne_eq, not_false_eq_true, if_true, if_false]
    rfl

/-! ### Positions -/

/-- The places of a grid of rows of `w`, counted through. -/
theorem flatMap_rows {α : Type} (g : Nat → Nat → α) (w h : Nat) :
    ((List.range h).flatMap fun j => (List.range w).map fun i => g i j) =
      (List.range (w * h)).map fun m => g (m % w) (m / w) := by
  induction h with
  | zero => rfl
  | succ h ih =>
    rw [List.range_succ, List.flatMap_append, ih, Nat.mul_succ, List.range_add, List.map_append, List.map_map]
    congr 1
    simp only [List.flatMap_cons, List.flatMap_nil, List.append_nil]
    refine List.map_congr_left fun i hi => ?_
    have hw : i < w := List.mem_range.mp hi
    simp only [Function.comp_apply, Nat.mul_add_mod, Nat.mod_eq_of_lt hw, Nat.mul_add_div (by omega : 0 < w),
      Nat.div_eq_of_lt hw, Nat.add_zero]

theorem mbPositions_eq (tl : Tile) (ms : Nat) :
    mbPositions tl ms = (List.range (ceilDiv tl.width ms * ceilDiv tl.height ms)).map fun m =>
      (m, tl.xpos + m % ceilDiv tl.width ms * ms, tl.ypos + m / ceilDiv tl.width ms * ms) := by
  rw [mbPositions, flatMap_rows fun i j => (tl.xpos + i * ms, tl.ypos + j * ms)]
  refine List.ext_getElem (by simp) fun k _ _ => ?_
  simp

end Sys2Proof.Machine
end

section
/-! SUPPORT. EMPTYTILE (44_coeff_dequant.md R288): the record of one macroblock, the records of a tile, and the copy or the
prediction that follows. -/

namespace Sys2Proof.Machine

open Sys2Proof.Claims

variable {s : State} {p b t m : Nat} {bd : Band} {tl : Tile} {mb : Mb} {k1 : Fin 4}

/-! ### One macroblock -/

/-- Where macroblock `m` of a tile lies. -/
def mbX (bd : Band) (tl : Tile) (m : Nat) : Nat := tl.xpos + m % ceilDiv tl.width bd.mbSize * bd.mbSize

/-- Its row. -/
def mbY (bd : Band) (tl : Tile) (m : Nat) : Nat := tl.ypos + m / ceilDiv tl.width bd.mbSize * bd.mbSize

/-- The macroblock inherits a vector that is not zero. -/
def movesMb (s : State) (bd : Band) (tl : Tile) (m : Nat) : Bool :=
  match refOf s tl m with
  | none => false
  | some ref => bd.inheritMv &&
      decide (inherited (vectorScale s bd) ref.mvX ≠ 0 ∨ inherited (vectorScale s bd) ref.mvY ≠ 0)

/-- What a tile has to know of its reference tile: it is one of another band, and has a macroblock for each of its own. -/
abbrev refersTo (s : State) (p b : Nat) (tl : Tile) : Prop :=
  ∀ i, tl.refTile = some i → (p ≠ 0 ∨ b ≠ 0) ∧ ∀ m, m < tl.mbs.length → (s.mb? 0 0 i m).isSome = true

theorem refMb_updTile (h : refersTo s p b tl) (hm : m < tl.mbs.length) (f : Tile → Tile) :
    refMb tl m (s.updTile p b t f) = .ok (refOf s tl m) (s.updTile p b t f) := by
  have hother (i : Nat) (hi : tl.refTile = some i) : (s.updTile p b t f).mb? 0 0 i m = s.mb? 0 0 i m :=
    State.updTile_mbOpt_other ((h i hi).1.imp Ne.symm Ne.symm) f i m
  rw [refMb_ok fun i hi => by rw [hother i hi]; exact (h i hi).2 m hm]
  congr 1
  unfold refOf
  cases htile : tl.refTile with
  | none => rfl
  | some i => exact hother i htile

theorem updMbIf_apply (c : Bool) (f : Mb → Mb) :
    (if c then updMb p b t m f else done) s = .ok () (s.updMb p b t m (if c then f else id)) := by
  cases c
  · exact congrArg (EStateM.Result.ok ()) (s.updMb_id p b t m).symm
  · rfl

/-- The record of R288 before what the macroblock inherits. -/
def placedRecord (bd : Band) (tl : Tile) (m : Nat) (old : Mb) : Mb :=
  let own : Mb := if (!bd.qdeltaPresent && decide (bd.plane = 0) && decide (bd.bandNum = 0)) = true then
    { old with qDelta := bd.globQuant.toNat, mvX := 0, mvY := 0 } else old
  { own with xpos := mbX bd tl m, ypos := mbY bd tl m, bufOffs := mbY bd tl m * bd.pitch + mbX bd tl m, type := 1, cbp := 0 }

theorem emptyRecord_none (href : refOf s tl m = none) : emptyRecord s bd tl m = placedRecord bd tl m := by
  funext old
  simp only [emptyRecord, href, placedRecord, Bool.and_eq_true, Bool.not_eq_true', decide_eq_true_eq, and_assoc]
  rfl

theorem emptyRecord_some {ref : Mb} (href : refOf s tl m = some ref) (old : Mb) :
    emptyRecord s bd tl m old = { placedRecord bd tl m old with
      qDelta := if bd.inheritQdelta then ref.qDelta else (placedRecord bd tl m old).qDelta
      mvX := if bd.inheritMv then inherited (vectorScale s bd) ref.mvX else (placedRecord bd tl m old).mvX
      mvY := if bd.inheritMv then inherited (vectorScale s bd) ref.mvY else (placedRecord bd tl m old).mvY } := by
  simp only [emptyRecord, href, placedRecord, Bool.and_eq_true, Bool.not_eq_true', decide_eq_true_eq, and_assoc]
  rfl

/-- The record is the quantiser delta and vector of its own, then its place. -/
theorem placedRecord_eq_comp (bd : Band) (tl : Tile) (m : Nat) :
    ((if (!bd.qdeltaPresent && decide (bd.plane = 0) && decide (bd.bandNum = 0)) = true then
        fun mb : Mb => { mb with qDelta := bd.globQuant.toNat, mvX := 0, mvY := 0 } else id) ∘ fun mb : Mb => { mb with
          xpos := mbX bd tl m, ypos := mbY bd tl m, bufOffs := mbY bd tl m * bd.pitch + mbX bd tl m, type := 1, cbp := 0 })
      = placedRecord bd tl m := by
  funext old
  unfold placedRecord
  split_ifs <;> rfl

/-- The quantiser delta a macroblock takes over from its reference. -/
abbrev shareQDelta (bd : Band) (ref : Mb) : Mb → Mb :=
  if bd.inheritQdelta = true then fun mb => { mb with qDelta := ref.qDelta } else id

/-- The vector a macroblock takes over from its reference. -/
abbrev shareVector (s : State) (bd : Band) (ref mb : Mb) : Mb :=
  { mb with mvX := inherited (vectorScale s bd) ref.mvX, mvY := inherited (vectorScale s bd) ref.mvY }

theorem emptyRecord_inherits {ref : Mb} (href : refOf s tl m = some ref) (hinherit : bd.inheritMv = true) :
    (shareVector s bd ref ∘ shareQDelta bd ref) ∘ placedRecord bd tl m = emptyRecord s bd tl m := by
  funext old
  rw [emptyRecord_some href, if_pos hinherit, if_pos hinherit]
  by_cases hq : bd.inheritQdelta = true <;> simp [shareQDelta, hq]

theorem emptyRecord_keeps {ref : Mb} (href : refOf s tl m = some ref) (hinherit : ¬bd.inheritMv = true) :
    shareQDelta bd ref ∘ placedRecord bd tl m = emptyRecord s bd tl m := by
  funext old
  rw [emptyRecord_some href, if_neg hinherit, if_neg hinherit]
  by_cases hq : bd.inheritQdelta = true <;> simp [shareQDelta, hq]

/-- One macroblock of an empty tile takes the record of R288. -/
theorem emptyMb_ok (h : refersTo s p b tl) (hm : m < tl.mbs.length) (f : Tile → Tile)
    (hfit : bd.inheritMv = true → ∀ ref, refOf s tl m = some ref → vectorFits bd (mbX bd tl m) (mbY bd tl m)
      (inherited (vectorScale s bd) ref.mvX) (inherited (vectorScale s bd) ref.mvY) = true) :
    emptyMb p b t bd tl m (mbX bd tl m) (mbY bd tl m) (s.updTile p b t f) =
      .ok (movesMb s bd tl m) ((s.updTile p b t f).updMb p b t m (emptyRecord s bd tl m)) := by
  obtain ⟨g, hg⟩ : ∃ g, (s.updTile p b t f).updMb p b t m (placedRecord bd tl m) = s.updTile p b t g :=
    ⟨_, State.updTile_updTile s p b t f _⟩
  have hscale (g h : Mb → Mb) :
      (((s.updTile p b t f).updMb p b t m g).updMb p b t m h).mvScale bd = vectorScale s bd := by
    rw [State.updMb_updMb, State.updMb, State.updTile_updTile, State.mvScale_updTile]
  rw [emptyMb, M.bind_ok (updMb_apply _), M.bind_ok (updMbIf_apply _ _), State.updMb_updMb, placedRecord_eq_comp, hg,
    M.bind_ok (refMb_updTile h hm g), movesMb]
  cases href : refOf s tl m with
  | none => rw [emptyRecord_none href, hg]; rfl
  | some ref =>
    simp only []
    rw [M.bind_ok (updMbIf_apply _ _), ← hg]
    by_cases hinherit : bd.inheritMv = true
    · rw [if_pos hinherit, M.bind_ok (look_apply _ _), hscale]
      simp only [inheritedMv_eq, hfit hinherit ref href, hinherit]
      rw [M.bind_ok (updMb_apply _), State.updMb_updMb, State.updMb_updMb, emptyRecord_inherits href hinherit]
      rfl
    · rw [if_neg hinherit, State.updMb_updMb, emptyRecord_keeps href hinherit, Bool.eq_false_of_not_eq_true hinherit]
      rfl

/-! ### The macroblocks of a tile -/

/-- What the records of an empty tile have to meet: a vector that is inherited lies in the band (R283). -/
abbrev vectorsInherited (s : State) (bd : Band) (tl : Tile) : Prop :=
  ∀ m, m < tl.mbs.length → bd.inheritMv = true → ∀ ref, refOf s tl m = some ref →
    vectorFits bd (mbX bd tl m) (mbY bd tl m) (inherited (vectorScale s bd) ref.mvX)
      (inherited (vectorScale s bd) ref.mvY) = true

/-- The macroblocks listed take their records in turn. -/
theorem emptyMbs_ok (h : refersTo s p b tl) (hfit : vectorsInherited s bd tl) (l : List Nat)
    (hl : ∀ m ∈ l, m < tl.mbs.length) (f : Tile → Tile) (needMc : Bool) :
    emptyMbs p b t bd tl (l.map fun m => (m, mbX bd tl m, mbY bd tl m)) needMc (s.updTile p b t f) =
      .ok (needMc || l.any (movesMb s bd tl)) ((s.updTile p b t f).updTile p b t fun tl' =>
        { tl' with mbs := l.foldl (fun mbs m => mbs.modify m (emptyRecord s bd tl m)) tl'.mbs }) := by
  induction l generalizing f needMc with
  | nil =>
    rw [State.updTile_updTile]
    simp [emptyMbs]
    rfl
  | cons m l ih =>
    rw [List.map_cons, emptyMbs, M.bind_ok (emptyMb_ok h (hl m List.mem_cons_self) f (hfit m (hl m List.mem_cons_self))),
      State.updMb, State.updTile_updTile, ih fun m' hm' => hl m' (List.mem_cons_of_mem _ hm')]
    rw [State.updTile_updTile, State.updTile_updTile, List.any_cons, Bool.or_assoc]
    rfl

/-- Every macroblock of an empty tile takes its record. -/
theorem emptyMbs_tile (htl : s.tile? p b t = some tl) (h : refersTo s p b tl) (hfit : vectorsInherited s bd tl)
    (hcount : tl.mbs.length = ceilDiv tl.width bd.mbSize * ceilDiv tl.height bd.mbSize) :
    emptyMbs p b t bd tl (mbPositions tl bd.mbSize) false s =
      .ok ((List.range tl.mbs.length).any (movesMb s bd tl)) (s.updTile p b t fun tl' =>
        { tl' with mbs := tl'.mbs.mapIdx (emptyRecord s bd tl) }) := by
  have hrun := emptyMbs_ok (t := t) h hfit (List.range tl.mbs.length) (fun m => List.mem_range.mp) (fun _ => tl) false
  rw [mbPositions_eq, ← hcount]
  rw [State.updTile_self htl] at hrun
  refine hrun.trans ?_
  rw [Bool.false_or]
  congr 1
  refine State.updTile_congr fun tl' htl' => ?_
  obtain rfl : tl' = tl := Option.some.inj (htl'.symm.trans htl)
  rw [foldl_modify_range]
  congr 1
  refine List.ext_getElem? fun i => ?_
  rw [List.getElem?_mapIdx, List.getElem?_mapIdx]
  cases hget : tl'.mbs[i]? with
  | none => rfl
  | some old => simp [(List.getElem?_eq_some_iff.mp hget).1]

/-! ### The copy and the prediction -/

/-- The records of an empty tile. -/
def State.recorded (s : State) (p b t : Nat) (bd : Band) (tl : Tile) : State :=
  s.updTile p b t fun tl' => { tl' with mbs := tl'.mbs.mapIdx (emptyRecord s bd tl) }

/-- EMPTYTILE gives the records, then copies or predicts. -/
theorem emptyTile_eq (hband : s.band? p b = some bd) (htl : s.tile? p b t = some tl) (h : refersTo s p b tl)
    (hfit : vectorsInherited s bd tl) (hsize : bd.mbSize ≠ 0)
    (hcount : tl.mbs.length = ceilDiv tl.width bd.mbSize * ceilDiv tl.height bd.mbSize) :
    emptyTile p b t s = (if bd.inheritMv && (List.range tl.mbs.length).any (movesMb s bd tl) then
      forEach (emptyPredict p b t bd) (List.range tl.mbs.length) else copyTile p b bd tl) (s.recorded p b t bd tl) := by
  have hmatch : countMatches tl bd.mbSize = true := by simp [countMatches, hsize, hcount]
  rw [emptyTile, M.bind_ok (getBand_ok hband), M.bind_ok (getTile_ok htl), hmatch, Bool.not_true,
    M.bind_ok (raiseIf_false _ _), M.bind_ok (emptyMbs_tile htl h hfit hcount)]
  rfl

theorem copyTile_ok {src : Buf} (href : bd.refBuf = some k1) (hsrc : s.buffer? p b k1 = some src) :
    copyTile p b bd tl s = .ok () (s.setBuffer p b s.rot.dstBuf
      (copySamples src (s.bufferOf p b s.rot.dstBuf) (tileCells bd tl))) := by
  simp [copyTile, M.bind_apply, needRef, href, hsrc]

theorem mem_tileCells {a : Nat} : a ∈ tileCells bd tl ↔
    ∃ row col, row < tl.height ∧ col < tl.width ∧ a = (tl.ypos + row) * bd.pitch + (tl.xpos + col) := by
  simp only [tileCells, List.mem_flatMap, List.mem_map, List.mem_range]
  constructor
  · rintro ⟨row, hrow, col, hcol, rfl⟩
    exact ⟨row, col, hrow, hcol, Nat.add_assoc _ _ _⟩
  · rintro ⟨row, col, hrow, hcol, rfl⟩
    exact ⟨row, hrow, col, hcol, Nat.add_assoc _ _ _⟩

/-- Every sample after the copy of a tile. -/
theorem State.sample_copyTile {src : Buf} (hmem : s.MemoryOk) (hsrc : s.buffer? p b k1 = some src)
    (hdst : s.hasBuffer p b s.rot.dstBuf = true) (p' b' k a : Nat) :
    (s.setBuffer p b s.rot.dstBuf (copySamples src (s.bufferOf p b s.rot.dstBuf) (tileCells bd tl))).sample p' b' k a =
      if (p' = p ∧ b' = b ∧ k = s.rot.dstBuf) ∧ a ∈ tileCells bd tl then s.sample p b k1 a else s.sample p' b' k a := by
  have hread : bufRead src a = s.sample p b k1 a := by rw [State.sample, State.bufferOf, hsrc]; rfl
  rw [State.sample_setBuffer, bufRead_copySamples _ _ (State.bufWf_bufferOf hmem _ _ _), hread]
  by_cases hdest : p' = p ∧ b' = b ∧ k = s.rot.dstBuf
  · obtain ⟨rfl, rfl, rfl⟩ := hdest
    simp only [hdst, and_self, if_true, true_and]
    rfl
  · simp [hdest]

/-- The prediction of a tile of one macroblock of one block. -/
theorem emptyPredict_one (hmb : s.mb? p b t 0 = some mb) (hone : bd.mbSize = bd.blkSize) (href : bd.refBuf = some k1)
    (hcheck : checkMc (forwardOps s p b mb.bufOffs bd mb k1) bd.blkSize (forwardType bd mb) none s = none) :
    forEach (emptyPredict p b t bd) (List.range 1) s = .ok () (s.mcWrite (forwardOps s p b mb.bufOffs bd mb k1) bd.blkSize
      false (s.predicted (forwardOps s p b mb.bufOffs bd mb k1) (forwardType bd mb))) := by
  have hoff : blockOffset bd mb 0 = mb.bufOffs := by simp [blockOffset]
  have hneed : needRef bd.refBuf s = .ok k1 s := by rw [href]; rfl
  have hpredict : emptyPredict p b t bd 0 s = emptyBlock p b bd mb 0 s := by
    rw [emptyPredict, M.bind_ok (getMb_ok hmb), blocksPerMb_one hone]
    exact forEach_singleton _ _
  refine (forEach_singleton _ _).trans (hpredict.trans ?_)
  rw [emptyBlock, M.bind_ok hneed, M.bind_ok (look_apply _ _), hoff]
  exact sub_ok hcheck

theorem exec_emptytile_ok {s' : State} {p b : BitVec 2} (hp : p ≠ 3) (h : ready s p.toNat b.toNat bd)
    (htl : s.tile? p.toNat b.toNat s.opr.t = some tl)
    (hbody : emptyTile p.toNat b.toNat s.opr.t s = .ok () s') : exec (.emptytile p b) s = .next s'.complete :=
  command_ok (legalPlane_of_ne hp) (checkTile_ok h htl) hbody

end Sys2Proof.Machine

namespace Sys2Proof.Proofs.CoeffFamily

open Sys2Proof.Machine Sys2Proof.Claims

/-- Settles O35: every macroblock takes its record; then the tile is copied where none moves, and predicted otherwise. -/
theorem emptyTileCopies : Obligations.EmptyTileCopies := by
  intro p b s bd tl k1 hp hmem hready htl hsize hcount href hbuf hrefers inherits record hfits planes
  have hrefers' : refersTo s p.toNat b.toNat tl := fun i hi =>
    ⟨(hrefers i hi).1.imp (fun h h0 => h (by bv_omega)) (fun h h0 => h (by bv_omega)), (hrefers i hi).2⟩
  have hinherits (hmv : bd.inheritMv = true) {m : Nat} {ref : Mb} (hm : refOf s tl m = some ref) : inherits :=
    ⟨hmv, by cases htile : tl.refTile with
      | none => rw [refOf, htile] at hm; cases hm
      | some i => rfl⟩
  have hvectors : vectorsInherited s bd tl := fun m hm hmv ref hrefm => by
    have hfit := hfits (hinherits hmv hrefm) m tl.mbs[m] (List.getElem?_eq_getElem hm)
    simp only [record, emptyRecord_some hrefm, hmv, if_true] at hfit
    exact hfit
  have hbody := emptyTile_eq hready.1 htl hrefers' hvectors hsize hcount
  refine ⟨fun hzero => ?_, fun old hinh hone hblk => ?_⟩
  · have hstill : (List.range tl.mbs.length).any (movesMb s bd tl) = false := by
      refine List.any_eq_false.mpr fun m hm => ?_
      rw [List.mem_range] at hm
      unfold movesMb
      cases hrefm : refOf s tl m with
      | none => exact Bool.false_ne_true
      | some ref =>
        by_cases hmv : bd.inheritMv = true
        · have hvector := hzero (hinherits hmv hrefm) m tl.mbs[m] (List.getElem?_eq_getElem hm)
          simp only [record, emptyRecord_some hrefm, hmv, if_true] at hvector
          simp [hvector]
        · simp [hmv]
    obtain ⟨src, hsrc⟩ := Option.isSome_iff_exists.mp hbuf
    rw [hstill, Bool.and_false, if_neg Bool.false_ne_true, copyTile_ok (s := s.recorded _ _ _ bd tl) href hsrc] at hbody
    have hsample := State.sample_copyTile (bd := bd) (tl := tl) hmem hsrc hready.2.2
    refine ⟨_, exec_emptytile_ok hp hready htl hbody, fun row col hrow hcol => ?_, fun p' b' k a hout => ?_, ?_⟩
    · refine (hsample _ _ _ _).trans (if_pos ⟨⟨rfl, rfl, rfl⟩, mem_tileCells.mpr ⟨row, col, hrow, hcol, rfl⟩⟩)
    · refine (hsample _ _ _ _).trans (if_neg fun h => hout ⟨h.1, mem_tileCells.mp h.2⟩)
    · rfl
  · intro mb t1 o hmove hcheck
    obtain ⟨i, hi⟩ := Option.isSome_iff_exists.mp hinh.2
    have hlen : tl.mbs.length = 1 := by rw [hone]; rfl
    obtain ⟨ref, href0⟩ : ∃ ref, refOf s tl 0 = some ref := by
      rw [refOf, hi]
      exact Option.isSome_iff_exists.mp ((hrefers i hi).2 0 (by omega))
    have hmoves : (List.range tl.mbs.length).any (movesMb s bd tl) = true := by
      simp only [mb, record, emptyRecord_some href0, hinh.1, if_true] at hmove
      simp [hlen, movesMb, href0, hinh.1, hmove]
    have hmb : (s.recorded p.toNat b.toNat s.opr.t bd tl).mb? p.toNat b.toNat s.opr.t 0 = some mb := by
      rw [State.mb?, State.recorded, State.updTile_tileOpt, htl, Option.map_some, hone]
      rfl
    rw [hmoves, Bool.and_true, if_pos hinh.1, hlen, emptyPredict_one hmb hblk href ((checkMc_updTile _ _ _ _ _).trans hcheck),
      State.recorded, State.predicted_updTile, State.mcWrite_updTile] at hbody
    exact exec_emptytile_ok hp hready htl hbody

end Sys2Proof.Proofs.CoeffFamily
end

section
/-! SUPPORT. The states in which DECMBINFO reads a tile of one macroblock (44_coeff_dequant.md R296, R297): only that
macroblock, the cursor and the draws differ from the state the command starts from. -/

namespace Sys2Proof.Machine

open Sys2Proof.Claims

variable {s : State} {p b t k n m d : Nat} {bd : Band} {tl : Tile} {mb old ref : Mb} {tbl : VlcTable}

theorem State.moved_moved (s : State) (n m : Nat) : (s.moved n).moved m = s.moved (n + m) := by
  simp only [State.moved, Nat.add_assoc]

/-! ### VLC reads (the preamble of 44_coeff_dequant.md) -/

/-- A code of a table of the stream's width is read as its symbol. -/
theorem readVlc_code {c : VlcCode} {u : Nat} (hroot : tbl.rootBits = 13) (hfree : prefixFree tbl.codes = true)
    (hc : c ∈ tbl.codes) (hlen : c.bits.length ≤ 13) (hsym : c.sym = u) (hb : s.bound = true) (hs : s.Holds c.bits)
    (hin : within s (s.br.index + c.bits.length)) :
    ∃ d, readVlc (some tbl) s = .ok u { s with br := atBit s (s.br.index + c.bits.length), draws := d } := by
  have hentry : vlcEntry tbl.rootBits tbl.codes tbl.rootBits (s.bitsAhead tbl.rootBits) = .code c.sym c.bits.length := by
    rw [hroot]
    exact vlcEntry_code hfree hc hlen (List.isPrefixOf_iff_prefix.mpr (hs.prefix_bitsAhead hlen))
  have hsymbol := vlcSymbol_code (depth := 1) (by decide) hb hentry hin
  refine ⟨(s.looked tbl.rootBits).draws, ?_⟩
  simp [readVlc, M.bind_apply, hroot, hsymbol, hsym]
  rfl

/-! ### The state of one macroblock -/

theorem State.updMb_self (h : s.mb? p b t m = some mb) : (s.updMb p b t m fun _ => mb) = s := by
  unfold State.mb? at h
  cases htl : s.tile? p b t with
  | none => simp [htl] at h
  | some tl =>
    rw [htl] at h
    refine (State.updTile_congr (g := fun _ => tl) fun tl' htl' => ?_).trans (State.updTile_self htl)
    obtain rfl : tl' = tl := Option.some.inj (htl'.symm.trans htl)
    rw [modify_const_of_getElem? h]

/-- The engine `s` while macroblock 0 of a tile is read: the macroblock, the cursor `k` bits on, and `d` draws. -/
def State.onMb (s : State) (p b t : Nat) (mb : Mb) (k d : Nat) : State :=
  { s with planes := (s.updMb p b t 0 fun _ => mb).planes, br := atBit s (s.br.index + k), draws := d }

theorem State.onMb_self (h : s.mb? p b t 0 = some mb) : s.onMb p b t mb 0 s.draws = s := by
  unfold State.onMb
  rw [State.updMb_self h]
  rfl

theorem updMb_onMb (f : Mb → Mb) : updMb p b t 0 f (s.onMb p b t mb k d) = .ok () (s.onMb p b t (f mb) k d) := by
  have hupd : (s.onMb p b t mb k d).updMb p b t 0 f = s.onMb p b t (f mb) k d := by
    show { (s.updMb p b t 0 fun _ => mb).updMb p b t 0 f with br := atBit s (s.br.index + k), draws := d } = _
    rw [State.updMb_updMb]
    rfl
  rw [updMb_apply, hupd]

theorem getMb_onMb (h : s.mb? p b t 0 = some old) : getMb p b t 0 (s.onMb p b t mb k d) = .ok mb (s.onMb p b t mb k d) :=
  getMb_ok ((State.updMb_mbOpt s p b t 0 fun _ => mb).trans (by rw [h]; rfl))

theorem readBits_onMb (hb : s.bound = true) (hs : streamHas s m) (hn : 0 < n) (hk : k + n ≤ m) :
    readBits n (s.onMb p b t mb k s.draws) = .ok (field s k n) (s.onMb p b t mb (k + n) s.draws) := by
  unfold State.onMb
  rw [← Nat.add_assoc]
  exact readBits_of_streamHas hb hn (streamHas_moved hs hk)

theorem readFlag_onMb (hb : s.bound = true) (hs : streamHas s m) (hk : k + 1 ≤ m) :
    readFlag (s.onMb p b t mb k s.draws) = .ok (decide (field s k 1 = 1)) (s.onMb p b t mb (k + 1) s.draws) :=
  M.bind_ok (readBits_onMb hb hs Nat.one_pos hk)

theorem alignBits_onMb (hb : s.bound = true) (hin : within s (aligned (s.br.index + k))) :
    alignBits (s.onMb p b t mb k d) = .ok () (s.onMb p b t mb (aligned (s.br.index + k) - s.br.index) d) := by
  rw [alignBits_ok (s := s.onMb p b t mb k d) hb hin]
  unfold State.onMb
  rw [add_aligned_sub]
  rfl

/-- The window of R295 is asked of a macroblock that is not intra. -/
theorem checkMbWindow_onMb (h : s.mb? p b t 0 = some old) (hwin : mb.type ≠ 0 → mbWindow bd mb = true) :
    checkMbWindow p b t 0 bd (s.onMb p b t mb k d) = .ok () (s.onMb p b t mb k d) := by
  have htest : (decide (mb.type ≠ 0) && !mbWindow bd mb) = false := by
    by_cases htype : mb.type = 0
    · simp [htype]
    · simp [hwin htype]
  rw [checkMbWindow, M.bind_ok (getMb_onMb h), htest]
  rfl

theorem mvScale_onMb : (s.onMb p b t mb k d).mvScale bd = vectorScale s bd :=
  State.mvScale_updTile (s := s) (p := p) (b := b) (t := t) (bd := bd) fun tl => { tl with mbs := tl.mbs.modify 0 fun _ => mb }

theorem inheritVector_onMb : inheritVector p b t 0 bd ref (s.onMb p b t mb k d) = .ok () (s.onMb p b t { mb with
    mvX := inherited (vectorScale s bd) ref.mvX, mvY := inherited (vectorScale s bd) ref.mvY } k d) := by
  rw [inheritVector, M.bind_ok (look_apply _ _), mvScale_onMb, inheritedMv_eq, inheritedMv_eq, updMb_onMb]

/-! ### Vector deltas -/

/-- A stream that holds two bit strings one after the other holds the first, and the second further on. -/
theorem State.Holds.append {as bs : List Bool} (h : s.Holds (as ++ bs)) : s.Holds as ∧ (s.moved as.length).Holds bs := by
  refine ⟨fun j hj => ?_, by simpa using h.moved as.length⟩
  rw [h j (by rw [List.length_append]; omega), List.getElem?_append_left hj]

theorem holds_of_codesAhead {c e : VlcCode} (h : codesAhead s tbl k c e) : (s.moved k).Holds (c.bits ++ e.bits) := by
  obtain ⟨-, -, -, -, -, -, hbits⟩ := h
  intro j hj
  rw [← hbits j (by rwa [List.length_append] at hj), ← Nat.add_assoc]
  rfl

/-- A signed value read where its code stands `k` bits after the cursor. -/
theorem readMbSigned_onMb {c : VlcCode} {u : Nat} (hb : s.bound = true) (htbl : s.tableOf s.mbVlc = some tbl)
    (hroot : tbl.rootBits = 13) (hfree : prefixFree tbl.codes = true) (hc : c ∈ tbl.codes) (hlen : c.bits.length ≤ 13)
    (hsym : c.sym = u) (hs : (s.moved k).Holds c.bits) (hin : within s (s.br.index + (k + c.bits.length))) :
    ∃ d', readMbSigned (s.onMb p b t mb k d) = .ok (toSigned u) (s.onMb p b t mb (k + c.bits.length) d') := by
  rw [← Nat.add_assoc] at hin
  obtain ⟨d', hvlc⟩ := readVlc_code (s := s.onMb p b t mb k d) hroot hfree hc hlen hsym hb hs hin
  have hlook : look (fun s => s.tableOf s.mbVlc) (s.onMb p b t mb k d) = .ok (some tbl) (s.onMb p b t mb k d) :=
    (look_apply _ _).trans (congrArg (fun o => EStateM.Result.ok o (s.onMb p b t mb k d)) htbl)
  refine ⟨d', ?_⟩
  rw [readMbSigned, M.bind_ok ((M.bind_ok hlook).trans hvlc), M.pure_apply, State.onMb, State.onMb, ← Nat.add_assoc]
  rfl

/-- The y delta, then the x delta, added to the predictor. -/
theorem readDeltas_onMb {cy cx : VlcCode} {uy ux : Nat} (hb : s.bound = true) (htbl : s.tableOf s.mbVlc = some tbl)
    (hcodes : codesAhead s tbl k cy cx) (hy : cy.sym = uy) (hx : cx.sym = ux)
    (hin : within s (s.br.index + (k + cy.bits.length + cx.bits.length))) (pred : Int × Int) :
    ∃ d', readDeltas pred (s.onMb p b t mb k d) = .ok (pred.1 + toSigned ux, pred.2 + toSigned uy)
      (s.onMb p b t mb (k + cy.bits.length + cx.bits.length) d') := by
  obtain ⟨hholdsy, hholdsx⟩ := (holds_of_codesAhead hcodes).append
  obtain ⟨hroot, hfree, hcy, hcx, hylen, hxlen, -⟩ := hcodes
  rw [State.moved_moved] at hholdsx
  obtain ⟨d1, h1⟩ := readMbSigned_onMb (p := p) (b := b) (t := t) (mb := mb) (d := d) hb htbl hroot hfree hcy hylen hy
    hholdsy (by omega)
  obtain ⟨d2, h2⟩ := readMbSigned_onMb (p := p) (b := b) (t := t) (mb := mb) (d := d1) hb htbl hroot hfree hcx hxlen hx
    hholdsx hin
  exact ⟨d2, by rw [readDeltas, M.bind_ok h1, M.bind_ok h2]; rfl⟩

end Sys2Proof.Machine
end

section
/-! SUPPORT. DECMBINFO of a tile of one macroblock (44_coeff_dequant.md R296, R297), part by part under both codecs: the
type, the quantiser delta and the vectors. -/

namespace Sys2Proof.Machine

open Sys2Proof.Claims

variable {s : State} {p b t k n m d : Nat} {bd : Band} {tl : Tile} {mb old ref : Mb} {tbl : VlcTable} {ref? : Option Mb}
  {pred : Int × Int}

/-! ### The parts by codec -/

/-- Whether every macroblock of band (0, 0) codes its quantiser delta. -/
def codesQDelta : Codec → State → Bool
  | .indeo4, s => s.hdr.inQ
  | .indeo5, s => s.alwaysQDelta5

/-- The type of a macroblock that is not empty. -/
def mbTypeOf : Codec → Band → Option Mb → M (BitVec 2)
  | .indeo4 => mbType4
  | .indeo5 => mbType5

/-- Its quantiser delta. -/
def mbQDeltaOf : Codec → Nat → Nat → Nat → Nat → Band → Option Mb → M Unit
  | .indeo4 => mbQDelta4
  | .indeo5 => mbQDelta5

/-- Its vectors. -/
def mbVectorsOf : Codec → Nat → Nat → Nat → Nat → Band → Option Mb → Int × Int → M (Int × Int)
  | .indeo4 => mbVectors4
  | .indeo5 => mbVector5

/-- Macroblock 0 of a tile in its place; INDEO4 clears its backward vector. -/
def placeMb (codec : Codec) (bd : Band) (tl : Tile) (old : Mb) : Mb :=
  { old with
    xpos := tl.xpos, ypos := tl.ypos, bufOffs := tl.ypos * bd.pitch + tl.xpos
    bMvX := if codec = .indeo4 then 0 else old.bMvX
    bMvY := if codec = .indeo4 then 0 else old.bMvY }

/-- The part after the macroblock's place. -/
def mbBody (codec : Codec) (p b t : Nat) (bd : Band) (ref? : Option Mb) (pred : Int × Int) : M (Int × Int) :=
  readFlag >>= fun empty =>
  (if empty then
    look (codesQDelta codec) >>= fun coded => emptyMbInfo p b t 0 bd coded ref? >>= fun _ => pure pred
   else
    mbTypeAndCbp p b t 0 bd (mbTypeOf codec bd ref?) >>= fun _ => mbQDeltaOf codec p b t 0 bd ref? >>= fun _ =>
    mbVectorsOf codec p b t 0 bd ref? pred) >>= fun pred' =>
  checkMbWindow p b t 0 bd >>= fun _ => pure pred'

/-- One macroblock under a codec. -/
def mbInfoOf : Codec → Nat → Nat → Nat → Band → Tile → Nat → Nat → Nat → Int × Int → M (Int × Int)
  | .indeo4 => mbInfo4
  | .indeo5 => mbInfo5

/-- Both codecs read a macroblock in the same order. -/
theorem mbInfoOf_eq (codec : Codec) :
    mbInfoOf codec p b t bd tl 0 tl.xpos tl.ypos pred = refMb tl 0 >>= fun ref? =>
      updMb p b t 0 (placeMb codec bd tl) >>= fun _ => mbBody codec p b t bd ref? pred := by
  cases codec <;> rfl

/-! ### The command -/

theorem mbPositions_one (h : ceilDiv tl.width n * ceilDiv tl.height n = 1) : mbPositions tl n = [(0, tl.xpos, tl.ypos)] := by
  rw [mbPositions_eq, h]
  simp

theorem mbInfos_one {one : Nat → Nat → Nat → Int × Int → M (Int × Int)} {x y : Nat} {s' : State} {pred' : Int × Int}
    (h : one 0 x y pred s = .ok pred' s') : mbInfos one [(0, x, y)] pred s = .ok () s' := M.bind_ok h

theorem exec_decmbinfo_ok {p b : BitVec 2} {s' : State} (hp : p ≠ 3) (h : ready s p.toNat b.toNat bd)
    (htl : s.tile? p.toNat b.toNat s.opr.t = some tl) (hbody : decodeMbInfo p.toNat b.toNat s.opr.t s = .ok () s') :
    exec (.decmbinfo p b) s = .next s'.complete :=
  command_ok (legalPlane_of_ne hp) (checkTile_ok h htl) hbody

/-- DECMBINFO of a tile of one macroblock: what the macroblock's part leaves, with the cursor aligned. -/
theorem exec_decmbinfo_one {p b : BitVec 2} (hp : p ≠ 3) (hb : s.bound = true) (h : ready s p.toNat b.toNat bd)
    (htl : s.tile? p.toNat b.toNat s.opr.t = some tl) (hone : tl.mbs = [old]) (hsize : bd.mbSize ≠ 0)
    (hcount : ceilDiv tl.width bd.mbSize * ceilDiv tl.height bd.mbSize = 1)
    (hrefs : s.params.codec = .indeo5 → inheritsWithoutRef bd tl = false)
    (href : refMb tl 0 s = .ok ref? s) {pred' : Int × Int}
    (hbody : mbBody s.params.codec p.toNat b.toNat s.opr.t bd ref? (0, 0)
      (s.onMb p.toNat b.toNat s.opr.t (placeMb s.params.codec bd tl old) 0 s.draws) =
        .ok pred' (s.onMb p.toNat b.toNat s.opr.t mb k d))
    (hin : within s (aligned (s.br.index + k))) :
    exec (.decmbinfo p b) s = .next { s with
      planes := (s.updMb p.toNat b.toNat s.opr.t 0 fun _ => mb).planes
      br := atBit s (aligned (s.br.index + k)), err := .none, draws := d } := by
  have hmb : s.mb? p.toNat b.toNat s.opr.t 0 = some old := by rw [State.mbOpt_of_tile htl, hone]; rfl
  have hmatch : countMatches tl bd.mbSize = true := by simp [countMatches, hsize, hcount, hone]
  have hplace := updMb_onMb (s := s) (p := p.toNat) (b := b.toNat) (t := s.opr.t) (mb := old) (k := 0) (d := s.draws)
    (placeMb s.params.codec bd tl)
  rw [State.onMb_self hmb] at hplace
  have hinfo : mbInfoOf s.params.codec p.toNat b.toNat s.opr.t bd tl 0 tl.xpos tl.ypos (0, 0) s =
      .ok pred' (s.onMb p.toNat b.toNat s.opr.t mb k d) := by
    rw [mbInfoOf_eq, M.bind_ok href, M.bind_ok hplace, hbody]
  have hbody : decodeMbInfo p.toNat b.toNat s.opr.t s =
      .ok () (s.onMb p.toNat b.toNat s.opr.t mb (aligned (s.br.index + k) - s.br.index) d) := by
    rw [decodeMbInfo, M.bind_ok (getBand_ok h.1), M.bind_ok (getTile_ok htl), M.bind_ok (look_apply _ _), hmatch,
      Bool.not_true, M.bind_ok (raiseIf_false _ _), mbPositions_one hcount]
    cases hcodec : s.params.codec with
    | indeo4 =>
      rw [hcodec] at hinfo
      exact (M.bind_ok (mbInfos_one hinfo)).trans (alignBits_onMb hb hin)
    | indeo5 =>
      rw [hcodec] at hinfo
      simp only [hrefs hcodec]
      exact (M.bind_ok ((M.bind_ok (raiseIf_false _ _)).trans (mbInfos_one hinfo))).trans (alignBits_onMb hb hin)
  rw [exec_decmbinfo_ok hp h htl hbody, State.onMb, add_aligned_sub]
  rfl

/-! ### An empty macroblock -/

theorem mbBody_empty {codec : Codec} (h : s.mb? p b t 0 = some old) (hb : s.bound = true) (hs : streamHas s 1)
    (hflag : field s 0 1 = 1) (hframe : s.frameType ≠ 0) (hq : (bd.isFirst && codesQDelta codec s) = false)
    {mv : Int × Int}
    (hmv : mv = (if bd.inheritMv then ref?.elim (0, 0) fun ref =>
      (inherited (vectorScale s bd) ref.mvX, inherited (vectorScale s bd) ref.mvY) else (0, 0)))
    (hwin : mbWindow bd { mb with type := 1, cbp := 0, qDelta := 0, mvX := mv.1, mvY := mv.2 } = true) :
    mbBody codec p b t bd ref? pred (s.onMb p b t mb 0 s.draws) =
      .ok pred (s.onMb p b t { mb with type := 1, cbp := 0, qDelta := 0, mvX := mv.1, mvY := mv.2 } 1 s.draws) := by
  have hinfo : emptyMbInfo p b t 0 bd (codesQDelta codec s) ref? (s.onMb p b t mb 1 s.draws) =
      .ok () (s.onMb p b t { mb with type := 1, cbp := 0, qDelta := 0, mvX := mv.1, mvY := mv.2 } 1 s.draws) := by
    have hframe' : decide ((s.onMb p b t mb 1 s.draws).frameType = 0) = false := decide_eq_false hframe
    unfold emptyMbInfo
    rw [M.bind_ok (look_apply _ _), hframe', M.bind_ok (raiseIf_false _ _), M.bind_ok (updMb_onMb _), hq,
      if_neg Bool.false_ne_true, M.bind_ok (done_apply _), M.bind_ok (updMb_onMb _), hmv]
    cases ref? with
    | none => simp
    | some ref =>
      by_cases hinherit : bd.inheritMv = true
      · simp [hinherit, inheritVector_onMb]
      · simp [hinherit]
  have hflag' : decide (field s 0 1 = 1) = true := decide_eq_true hflag
  rw [mbBody, M.bind_ok (readFlag_onMb hb hs (by decide)), hflag', if_pos rfl]
  have hlook : look (codesQDelta codec) (s.onMb p b t mb 1 s.draws) =
      .ok (codesQDelta codec s) (s.onMb p b t mb 1 s.draws) := by cases codec <;> rfl
  rw [M.bind_ok ((M.bind_ok hlook).trans (M.bind_ok hinfo)), M.bind_ok (checkMbWindow_onMb h fun _ => hwin)]
  rfl

/-! ### A macroblock that is not empty -/

/-- The body from its type, its quantiser delta and its vectors. -/
theorem mbBody_coded {codec : Codec} {ty : BitVec 2} {mb1 mb2 : Mb} {k' : Nat} {pred' : Int × Int}
    (h : s.mb? p b t 0 = some old) (hb : s.bound = true) (hs : streamHas s (k + bd.blocksPerMb))
    (hk : 1 ≤ k) (hflag : field s 0 1 = 0)
    (htype : mbTypeOf codec bd ref? (s.onMb p b t mb 1 s.draws) = .ok ty (s.onMb p b t mb k s.draws))
    (hcbp : field s k bd.blocksPerMb = 0)
    (hq : mbQDeltaOf codec p b t 0 bd ref?
        (s.onMb p b t { mb with type := ty, cbp := 0, qDelta := 0 } (k + bd.blocksPerMb) s.draws) =
      .ok () (s.onMb p b t mb1 (k + bd.blocksPerMb) s.draws))
    (hv : mbVectorsOf codec p b t 0 bd ref? pred (s.onMb p b t mb1 (k + bd.blocksPerMb) s.draws) =
      .ok pred' (s.onMb p b t mb2 k' d))
    (hwin : mb2.type ≠ 0 → mbWindow bd mb2 = true) :
    mbBody codec p b t bd ref? pred (s.onMb p b t mb 0 s.draws) = .ok pred' (s.onMb p b t mb2 k' d) := by
  have hblocks : 0 < bd.blocksPerMb := by unfold Band.blocksPerMb; split_ifs <;> decide
  have hflag' : decide (field s 0 1 = 1) = false := decide_eq_false (by omega)
  have hbits : mbTypeAndCbp p b t 0 bd (mbTypeOf codec bd ref?) (s.onMb p b t mb 1 s.draws) =
      .ok () (s.onMb p b t { mb with type := ty, cbp := 0, qDelta := 0 } (k + bd.blocksPerMb) s.draws) := by
    rw [mbTypeAndCbp, M.bind_ok htype, M.bind_ok (updMb_onMb _), M.bind_ok (readBits_onMb hb hs hblocks le_rfl),
      updMb_onMb, hcbp]
    rfl
  rw [mbBody, M.bind_ok (readFlag_onMb hb hs (by omega)), hflag', if_neg Bool.false_ne_true,
    M.bind_ok ((M.bind_ok hbits).trans ((M.bind_ok hq).trans hv)), M.bind_ok (checkMbWindow_onMb h hwin)]
  rfl

/-! ### The type -/

/-- An INTRA frame codes no type. -/
theorem mbTypeOf_intra (codec : Codec) (hown : bd.inheritMv = false) (hframe : s.frameType = 0) :
    mbTypeOf codec bd ref? (s.onMb p b t mb k d) = .ok 0 (s.onMb p b t mb k d) := by
  have hframe' : (s.onMb p b t mb k d).frameType = 0 := hframe
  cases codec <;> simp [mbTypeOf, mbType4, mbType5, hown, M.bind_apply, hframe']

/-- An INTER frame codes one bit. -/
theorem mbTypeOf_inter {codec : Codec} (hb : s.bound = true) (hs : streamHas s m) (hk : k + 1 ≤ m)
    (hown : bd.inheritMv = false) (hframe : s.frameType = if codec = .indeo4 then 2 else 1) :
    mbTypeOf codec bd ref? (s.onMb p b t mb k s.draws) =
      .ok (BitVec.ofNat 2 (field s k 1)) (s.onMb p b t mb (k + 1) s.draws) := by
  have hframe' : (s.onMb p b t mb k s.draws).frameType = if codec = .indeo4 then 2 else 1 := hframe
  have hread := readBits_onMb (p := p) (b := b) (t := t) (mb := mb) hb hs Nat.one_pos hk
  cases codec <;> simp [mbTypeOf, mbType4, mbType5, M.bind_apply, hown, hframe', hread, -bind_pure_comp]

/-- A BIDIR frame of INDEO4 codes two bits. -/
theorem mbTypeOf_bidir {codec : Codec} (hcodec : codec = .indeo4) (hb : s.bound = true) (hs : streamHas s m) (hk : k + 2 ≤ m)
    (hown : bd.inheritMv = false) (hframe : s.frameType = 3) :
    mbTypeOf codec bd ref? (s.onMb p b t mb k s.draws) =
      .ok (BitVec.ofNat 2 (field s k 2)) (s.onMb p b t mb (k + 2) s.draws) := by
  subst hcodec
  have hframe' : (s.onMb p b t mb k s.draws).frameType = 3 := hframe
  have hread := readBits_onMb (p := p) (b := b) (t := t) (mb := mb) hb hs Nat.two_pos hk
  simp [mbTypeOf, mbType4, M.bind_apply, hown, hframe', hread, -bind_pure_comp]

/-- A macroblock that inherits its vector inherits its type. -/
theorem mbTypeOf_inherited (codec : Codec) (hinherit : bd.inheritMv = true) :
    mbTypeOf codec bd (some ref) (s.onMb p b t mb k d) = .ok ref.type (s.onMb p b t mb k d) := by
  cases codec <;> simp [mbTypeOf, mbType4, mbType5, hinherit, M.bind_apply]

/-! ### The quantiser delta -/

/-- Whether a macroblock inherits its quantiser delta. -/
def inheritsQDelta (codec : Codec) (bd : Band) : Bool :=
  bd.inheritQdelta && (decide (codec = .indeo4) || bd.qdeltaPresent)

theorem inheritsQDelta_iff {codec : Codec} : inheritsQDelta codec bd = true ↔
    bd.inheritQdelta = true ∧ (codec = .indeo4 ∨ bd.qdeltaPresent = true) := by
  simp [inheritsQDelta]

/-- A macroblock without a coded block outside band (0, 0), or where not every macroblock codes one, codes no quantiser
delta. -/
theorem mbQDeltaOf_uncoded {codec : Codec} (h : s.mb? p b t 0 = some old) (hown : inheritsQDelta codec bd = false)
    (hq : (bd.isFirst && codesQDelta codec s) = false) (hcbp : mb.cbp = 0) :
    mbQDeltaOf codec p b t 0 bd ref? (s.onMb p b t mb k d) = .ok () (s.onMb p b t mb k d) := by
  have hget := getMb_onMb (mb := mb) (k := k) (d := d) h
  cases codec with
  | indeo4 =>
    have hq' : (bd.isFirst && (s.onMb p b t mb k d).hdr.inQ) = false := hq
    have hown' : bd.inheritQdelta = false := by simpa [inheritsQDelta] using hown
    show mbQDelta4 p b t 0 bd ref? _ = _
    unfold mbQDelta4
    rw [hown', if_neg Bool.false_ne_true, M.bind_ok hget, M.bind_ok (look_apply _ _), hq',
      if_neg (not_or.mpr ⟨not_not.mpr hcbp, Bool.false_ne_true⟩)]
    rfl
  | indeo5 =>
    have hq' : (bd.isFirst && (s.onMb p b t mb k d).alwaysQDelta5) = false := hq
    show mbQDelta5 p b t 0 bd ref? _ = _
    by_cases hpresent : bd.qdeltaPresent = true
    · have hown' : bd.inheritQdelta = false := by simpa [inheritsQDelta, hpresent] using hown
      unfold mbQDelta5
      rw [if_pos hpresent, hown', if_neg Bool.false_ne_true, M.bind_ok hget, M.bind_ok (look_apply _ _), hq',
        if_neg (not_or.mpr ⟨not_not.mpr hcbp, Bool.false_ne_true⟩)]
      rfl
    · unfold mbQDelta5
      rw [if_neg hpresent]
      rfl

theorem mbQDeltaOf_inherited {codec : Codec} (hinherit : inheritsQDelta codec bd = true) :
    mbQDeltaOf codec p b t 0 bd (some ref) (s.onMb p b t mb k d) =
      .ok () (s.onMb p b t { mb with qDelta := ref.qDelta } k d) := by
  cases codec <;> simp_all [mbQDeltaOf, mbQDelta4, mbQDelta5, inheritsQDelta, updMb_onMb]

/-! ### The vectors -/

theorem mbVectorsOf_intra (codec : Codec) (h : s.mb? p b t 0 = some old) (htype : mb.type = 0) :
    mbVectorsOf codec p b t 0 bd ref? pred (s.onMb p b t mb k d) =
      .ok pred (s.onMb p b t { mb with mvX := 0, mvY := 0 } k d) := by
  have hget := getMb_onMb (mb := mb) (k := k) (d := d) h
  cases codec <;> simp [mbVectorsOf, mbVectors4, mbVector5, M.bind_apply, hget, htype, updMb_onMb, -bind_pure_comp,
    -BitVec.ofNat_eq_ofNat]

/-- The macroblock after its inherited vector; a backward one of INDEO4 takes it negated. -/
def inheritVectors (codec : Codec) (mv : Int × Int) (mb : Mb) : Mb :=
  if codec = .indeo4 ∧ mb.type = 2 then { mb with mvX := 0, mvY := 0, bMvX := -mv.1, bMvY := -mv.2 }
  else { mb with mvX := mv.1, mvY := mv.2 }

theorem mbVectorsOf_inherited (codec : Codec) (h : s.mb? p b t 0 = some old) (htype : mb.type ≠ 0)
    (hinherit : bd.inheritMv = true) :
    mbVectorsOf codec p b t 0 bd (some ref) pred (s.onMb p b t mb k d) = .ok pred (s.onMb p b t
      (inheritVectors codec (inherited (vectorScale s bd) ref.mvX, inherited (vectorScale s bd) ref.mvY) mb) k d) := by
  have hget := getMb_onMb (mb := mb) (k := k) (d := d) h
  have hvec := (M.bind_ok (f := fun _ => (pure pred : M (Int × Int)))
    (inheritVector_onMb (s := s) (p := p) (b := b) (t := t) (k := k) (d := d) (bd := bd) (mb := mb) (ref := ref))).trans
    (M.pure_apply _ _)
  cases codec with
  | indeo4 =>
    show mbVectors4 p b t 0 bd (some ref) pred _ = _
    rw [mbVectors4, M.bind_ok hget, if_neg htype, if_pos hinherit, M.bind_ok hvec]
    by_cases hback : mb.type = 2
    · rw [if_pos hback, M.bind_ok (updMb_onMb _), inheritVectors, if_pos ⟨rfl, hback⟩]
      rfl
    · rw [if_neg hback, M.bind_ok (done_apply _), inheritVectors, if_neg fun h => hback h.2]
      rfl
  | indeo5 =>
    show mbVector5 p b t 0 bd (some ref) pred _ = _
    rw [mbVector5, M.bind_ok hget, if_neg htype, if_pos hinherit, inheritVectors, if_neg fun h => nomatch h.1]
    exact hvec

section deltas

variable {cy cx : VlcCode} {uy ux : Nat} (h : s.mb? p b t 0 = some old) (hb : s.bound = true)
  (htbl : s.tableOf s.mbVlc = some tbl) (hown : bd.inheritMv = false) (hcodes : codesAhead s tbl k cy cx)
  (hy : cy.sym = uy) (hx : cx.sym = ux) (hin : within s (s.br.index + (k + cy.bits.length + cx.bits.length)))

include h hb htbl hown hcodes hy hx hin

/-- One vector, of a forward macroblock. -/
theorem mbVectorsOf_forward (codec : Codec) (htype : mb.type = 1) :
    ∃ d', mbVectorsOf codec p b t 0 bd ref? (0, 0) (s.onMb p b t mb k d) = .ok (toSigned ux, toSigned uy)
      (s.onMb p b t { mb with mvX := toSigned ux, mvY := toSigned uy } (k + cy.bits.length + cx.bits.length) d') := by
  obtain ⟨d', hread⟩ := readDeltas_onMb (p := p) (b := b) (t := t) (mb := mb) (d := d) hb htbl hcodes hy hx hin (0, 0)
  have hget := getMb_onMb (mb := mb) (k := k) (d := d) h
  refine ⟨d', ?_⟩
  cases codec <;>
    simp [mbVectorsOf, mbVectors4, mbVector5, decodeVectors4, M.bind_apply, hget, htype, hown, hread, updMb_onMb,
      -bind_pure_comp, -BitVec.ofNat_eq_ofNat]

/-- One vector of INDEO4, of a backward macroblock, which takes it negated. -/
theorem mbVectorsOf_backward {codec : Codec} (hcodec : codec = .indeo4) (htype : mb.type = 2) :
    ∃ d', mbVectorsOf codec p b t 0 bd ref? (0, 0) (s.onMb p b t mb k d) = .ok (toSigned ux, toSigned uy)
      (s.onMb p b t { mb with mvX := 0, mvY := 0, bMvX := -toSigned ux, bMvY := -toSigned uy }
        (k + cy.bits.length + cx.bits.length) d') := by
  subst hcodec
  obtain ⟨d', hread⟩ := readDeltas_onMb (p := p) (b := b) (t := t) (mb := mb) (d := d) hb htbl hcodes hy hx hin (0, 0)
  have hget := getMb_onMb (mb := mb) (k := k) (d := d) h
  refine ⟨d', ?_⟩
  simp [mbVectorsOf, mbVectors4, decodeVectors4, M.bind_apply, hget, htype, hown, hread, updMb_onMb, -bind_pure_comp,
    -BitVec.ofNat_eq_ofNat]

/-- Two vectors of INDEO4, the second relative to the first. -/
theorem mbVectorsOf_both {codec : Codec} {dy dx : VlcCode} {vy vx : Nat} (hcodec : codec = .indeo4) (htype : mb.type = 3)
    (hcodes' : codesAhead s tbl (k + cy.bits.length + cx.bits.length) dy dx) (hy' : dy.sym = vy) (hx' : dx.sym = vx)
    (hin' : within s (s.br.index + (k + cy.bits.length + cx.bits.length + dy.bits.length + dx.bits.length))) :
    ∃ d' pred', mbVectorsOf codec p b t 0 bd ref? (0, 0) (s.onMb p b t mb k d) = .ok pred' (s.onMb p b t { mb with
        mvX := toSigned ux, mvY := toSigned uy
        bMvX := -(toSigned ux + toSigned vx), bMvY := -(toSigned uy + toSigned vy) }
      (k + cy.bits.length + cx.bits.length + dy.bits.length + dx.bits.length) d') := by
  subst hcodec
  obtain ⟨d1, hread⟩ := readDeltas_onMb (p := p) (b := b) (t := t) (mb := mb) (d := d) hb htbl hcodes hy hx hin (0, 0)
  obtain ⟨d2, hread'⟩ := readDeltas_onMb (p := p) (b := b) (t := t)
    (mb := { mb with mvX := toSigned ux, mvY := toSigned uy }) (d := d1) hb htbl hcodes' hy' hx' hin'
    (toSigned ux, toSigned uy)
  have hget := getMb_onMb (mb := mb) (k := k) (d := d) h
  refine ⟨d2, (toSigned ux + toSigned vx, toSigned uy + toSigned vy), ?_⟩
  have htype3 : ¬mb.type = 0 ∧ ¬mb.type = 2 := by rw [htype]; decide
  show mbVectors4 p b t 0 bd ref? (0, 0) _ = _
  unfold mbVectors4
  rw [M.bind_ok hget, if_neg htype3.1, hown, if_neg Bool.false_ne_true, M.bind_ok, if_neg htype3.2]
  · rfl
  rw [decodeVectors4, M.bind_ok hread, M.bind_ok (updMb_onMb _), if_pos htype]
  simp only [Int.zero_add]
  rw [M.bind_ok hread', M.bind_ok (updMb_onMb _)]
  rfl

end deltas

/-! ### The window of a macroblock that stands still -/

theorem le_aligned (i : Nat) : i ≤ aligned i := by
  unfold aligned
  omega

/-- A macroblock without a vector lies in the buffer when its block does. -/
theorem mbWindow_still (hsize : bd.mbSize ≠ 0)
    (hfits : mb.xpos + bd.mbSize + (mb.ypos + bd.mbSize - 1) * bd.pitch ≤ bd.pitch * bd.aheight)
    (hx : mb.mvX = 0) (hy : mb.mvY = 0) : mbWindow bd mb = true := by
  have hhalf (h : Bool) : halve h 0 = 0 ∧ halve h (0 + if h then 1 else 0) = 0 := by cases h <;> decide
  have hrow : ((mb.ypos + bd.mbSize - 1 : Nat) : Int) = mb.ypos + bd.mbSize - 1 := by omega
  zify at hfits
  rw [hrow] at hfits
  simp only [mbWindow, hx, hy, (hhalf _).1, (hhalf _).2, add_zero, Band.bufsize, decide_eq_true_eq]
  push_cast
  exact ⟨by positivity, by omega⟩

end Sys2Proof.Machine

namespace Sys2Proof.Proofs.CoeffFamily

open Sys2Proof.Machine Sys2Proof.Claims

/-- Settles O37: the macroblock's place, then its type, its quantiser delta and its vectors, each by its own rule. -/
theorem mbInfoOneMacroblock : Obligations.MbInfoOneMacroblock := by
  refine ⟨?_, ?_⟩
  · intro p b s bd tl old hp hb hready htl hone hsize hcount hown hq4 hq5 href nb placed gives
    have hmb : s.mb? p.toNat b.toNat s.opr.t 0 = some old := by rw [State.mbOpt_of_tile htl, hone]; rfl
    have hq : inheritsQDelta s.params.codec bd = false ∧ (bd.isFirst && codesQDelta s.params.codec s) = false := by
      cases hcodec : s.params.codec with
      | indeo4 => simpa [inheritsQDelta, codesQDelta, -Bool.and_eq_false_imp, Bool.and_eq_false_iff] using hq4 hcodec
      | indeo5 =>
        simpa [inheritsQDelta, codesQDelta, State.alwaysQDelta5, or_comm, -Bool.and_eq_false_imp, Bool.and_eq_false_iff]
          using hq5 hcodec
    have hrefs (hcodec : s.params.codec = .indeo5) : inheritsWithoutRef bd tl = false := by
      have hshared := (hq5 hcodec).1
      cases hpresent : bd.qdeltaPresent <;> simp_all [inheritsWithoutRef]
    have runs {mb : Mb} {len d : Nat} {pred' : Int × Int} (hin : within s (aligned (s.br.index + len)))
        (hbody : mbBody s.params.codec p.toNat b.toNat s.opr.t bd (refOf s tl 0) (0, 0)
          (s.onMb p.toNat b.toNat s.opr.t (placeMb s.params.codec bd tl old) 0 s.draws) =
            .ok pred' (s.onMb p.toNat b.toNat s.opr.t mb len d)) : gives mb len :=
      ⟨d, exec_decmbinfo_one hp hb hready htl hone hsize hcount hrefs (refMb_ok href) hbody hin⟩
    have hdelta {ty : BitVec 2} {k : Nat} := mbQDeltaOf_uncoded (k := k) (d := s.draws) (bd := bd)
      (mb := { placed with type := ty, cbp := 0, qDelta := 0 }) (ref? := refOf s tl 0) hmb hq.1 hq.2 rfl
    refine ⟨?_, ?_, ?_, ?_⟩
    · intro hframe hs hflag hcbp hin
      exact runs hin (mbBody_coded hmb hb hs le_rfl hflag (mbTypeOf_intra _ hown hframe) hcbp hdelta
        (mbVectorsOf_intra _ hmb rfl) fun h => absurd rfl h)
    · intro hframe hs hflag hin hfits
      exact runs hin (mbBody_empty hmb hb hs hflag hframe hq.2 (mv := (0, 0)) (by rw [hown]; rfl)
        (mbWindow_still hsize hfits rfl rfl))
    · intro tbl cy cx uy ux hframe hs hflag hty hcbp htbl hcodes hy hx hin mb hwin
      have hty' : BitVec.ofNat 2 (field s 1 1) = 1 := by rw [hty]; rfl
      obtain ⟨d, hvec⟩ := mbVectorsOf_forward (d := s.draws) (bd := bd) (ref? := refOf s tl 0)
        (mb := { placed with type := 1, cbp := 0, qDelta := 0 }) hmb hb htbl hown hcodes hy hx ((le_aligned _).trans hin)
        s.params.codec rfl
      exact runs hin (mbBody_coded hmb hb hs (by decide) hflag
        (hty' ▸ mbTypeOf_inter hb hs (by omega) hown hframe) hcbp hdelta hvec fun _ => hwin)
    · intro tbl cy cx uy ux hcodec hframe hs hflag hcbp htbl hcodes hy hx len
      refine ⟨?_, ?_⟩
      · intro hty hin mb hwin
        have hty' : BitVec.ofNat 2 (field s 1 2) = 2 := by rw [hty]; rfl
        obtain ⟨d, hvec⟩ := mbVectorsOf_backward (d := s.draws) (bd := bd) (ref? := refOf s tl 0)
          (mb := { placed with type := 2, cbp := 0, qDelta := 0 }) hmb hb htbl hown hcodes hy hx
          ((le_aligned _).trans hin) hcodec rfl
        exact runs hin (mbBody_coded hmb hb hs (by decide) hflag
          (hty' ▸ mbTypeOf_bidir hcodec hb hs (by omega) hown hframe) hcbp hdelta hvec fun _ => hwin)
      · intro dy dx vy vx hty hcodes' hy' hx' len' hin mb hwin
        have hty' : BitVec.ofNat 2 (field s 1 2) = 3 := by rw [hty]; rfl
        have hin' := (le_aligned _).trans hin
        obtain ⟨d, pred', hvec⟩ := mbVectorsOf_both (d := s.draws) (bd := bd) (ref? := refOf s tl 0)
          (mb := { placed with type := 3, cbp := 0, qDelta := 0 }) hmb hb htbl hown hcodes hy hx (by omega) hcodec
          rfl hcodes' hy' hx' hin'
        exact runs hin (mbBody_coded hmb hb hs (by decide) hflag
          (hty' ▸ mbTypeOf_bidir hcodec hb hs (by omega) hown hframe) hcbp hdelta hvec fun _ => hwin)
  · intro p b s bd tl old ref hp hb hready htl hone hsize hcount hinherit hfirst href nb vx vy placed gives
    have hmb : s.mb? p.toNat b.toNat s.opr.t 0 = some old := by rw [State.mbOpt_of_tile htl, hone]; rfl
    have hrefs : s.params.codec = .indeo5 → inheritsWithoutRef bd tl = false := fun _ => by
      cases htile : tl.refTile with
      | none => rw [refOf, htile] at href; cases href
      | some i => simp [inheritsWithoutRef, htile]
    have hrefMb : refMb tl 0 s = .ok (some ref) s := href ▸ refMb_ok fun i hi => by
      rw [refOf, hi] at href
      exact Option.isSome_of_eq_some href
    have runs {mb : Mb} {len : Nat} {pred' : Int × Int} (hin : within s (aligned (s.br.index + len)))
        (hbody : mbBody s.params.codec p.toNat b.toNat s.opr.t bd (some ref) (0, 0)
          (s.onMb p.toNat b.toNat s.opr.t (placeMb s.params.codec bd tl old) 0 s.draws) =
            .ok pred' (s.onMb p.toNat b.toNat s.opr.t mb len s.draws)) : gives mb len :=
      exec_decmbinfo_one hp hb hready htl hone hsize hcount hrefs hrefMb hbody hin
    have hq : (bd.isFirst && codesQDelta s.params.codec s) = false := by rw [hfirst]; rfl
    refine ⟨?_, ?_⟩
    · intro hframe hs hflag hin mb hwin
      exact runs hin (mbBody_empty hmb hb hs hflag hframe hq (mv := (vx, vy)) (by rw [hinherit]; rfl) hwin)
    · intro hs hflag hcbp hin shared mb hwin
      have hdelta : mbQDeltaOf s.params.codec p.toNat b.toNat s.opr.t 0 bd (some ref)
          (s.onMb p.toNat b.toNat s.opr.t { placed with type := ref.type, cbp := 0, qDelta := 0 } (1 + nb) s.draws) =
            .ok () (s.onMb p.toNat b.toNat s.opr.t shared (1 + nb) s.draws) := by
        by_cases hshare : bd.inheritQdelta = true ∧ (s.params.codec = .indeo4 ∨ bd.qdeltaPresent = true)
        · simp only [shared, if_pos hshare]
          exact mbQDeltaOf_inherited (inheritsQDelta_iff.mpr hshare)
        · simp only [shared, if_neg hshare]
          exact mbQDeltaOf_uncoded hmb (Bool.eq_false_iff.mpr (mt inheritsQDelta_iff.mp hshare)) hq rfl
      have hvec : mbVectorsOf s.params.codec p.toNat b.toNat s.opr.t 0 bd (some ref) (0, 0)
          (s.onMb p.toNat b.toNat s.opr.t shared (1 + nb) s.draws) =
            .ok (0, 0) (s.onMb p.toNat b.toNat s.opr.t mb (1 + nb) s.draws) := by
        by_cases hintra : ref.type = 0
        · simp only [mb, if_pos hintra]
          exact mbVectorsOf_intra _ hmb hintra
        · simp only [mb, if_neg hintra]
          exact mbVectorsOf_inherited _ hmb hintra hinherit
      exact runs hin (mbBody_coded hmb hb hs le_rfl hflag (mbTypeOf_inherited _ hinherit) hcbp hdelta hvec hwin)

end Sys2Proof.Proofs.CoeffFamily
end

section
/-! SUPPORT. DECBLK's coefficient loop (44_coeff_dequant.md R285): the states of the loop, the symbols and escapes it
reads, and the coefficients it stores. -/

namespace Sys2Proof.Machine

open Sys2Proof.Claims

variable {s : State} {n k d j : Nat} {bd : Band} {tbl : VlcTable} {scan : List Nat} {base : List (BitVec 16)}
  {w : Nat → BitVec 16} {quant : Int} {intra : Bool} {coefs : Vector Coef 64 × Vector Bool 8} {sp : Int}

/-! ### Codes that stand in the stream -/

/-- A stream that holds a bit is bound, and the bits end before the padding. -/
theorem State.Holds.bound_and_within {bits : List Bool} (h : s.Holds bits) (hne : bits ≠ []) :
    s.bound = true ∧ s.br.index + bits.length ≤ s.br.sizeBits := by
  have hpos : 0 < bits.length := List.length_pos_iff.mpr hne
  have hlast := h (bits.length - 1) (by omega)
  rw [List.getElem?_eq_getElem (by omega), State.bsBit] at hlast
  split_ifs at hlast with hlt
  refine ⟨?_, by omega⟩
  unfold State.bound
  cases hbuf : s.br.buf with
  | none => simp [hbuf] at hlast
  | some bytes => rfl

/-- A prefixFree list of two codes has no empty one. -/
theorem bits_ne_nil {codes : List VlcCode} {a b c : VlcCode} (hfree : prefixFree codes = true) (ha : a ∈ codes)
    (hb : b ∈ codes) (hsym : a.sym ≠ b.sym) (hc : c ∈ codes) : c.bits ≠ [] := fun hnil => by
  have hca : c = a := eq_of_prefixFree hfree hc ha (hnil ▸ List.nil_prefix) (List.prefix_refl a.bits)
  have hcb : c = b := eq_of_prefixFree hfree hc hb (hnil ▸ List.nil_prefix) (List.prefix_refl b.bits)
  exact hsym (congrArg VlcCode.sym (hca.symm.trans hcb))

/-! ### The states of the loop -/

/-- The engine `s` in the coefficient loop: the coefficients and flags, the scan position, the cursor `k` bits on, and
`d` draws. -/
def State.atCoef (s : State) (coefs : Vector Coef 64 × Vector Bool 8) (sp : Int) (k d : Nat) : State :=
  { s with
    scratch := { s.scratch with trvec := coefs.1, colFlags := coefs.2, scanPos := sp }
    br := atBit s (s.br.index + k), draws := d }

/-- The band's block codes are `tbl`, of the stream's width, prefixFree and without an empty code. -/
structure BlockCodes (s : State) (bd : Band) (tbl : VlcTable) : Prop where
  table : s.tableOf bd.blkVlc = some tbl
  root : tbl.rootBits = 13
  free : prefixFree tbl.codes = true
  nonempty : ∀ c ∈ tbl.codes, c.bits ≠ []

/-- A code that stands `k` bits after the cursor is read as its symbol. -/
theorem readSymbol_atCoef (h : BlockCodes s bd tbl) {c : VlcCode} {u : Nat} (hc : c ∈ tbl.codes)
    (hlen : c.bits.length ≤ 13) (hsym : c.sym = u) (hs : (s.moved k).Holds c.bits) :
    ∃ d', readSymbol bd (s.atCoef coefs sp k d) = .ok u (s.atCoef coefs sp (k + c.bits.length) d') := by
  obtain ⟨hbound, hin⟩ := hs.bound_and_within (h.nonempty c hc)
  obtain ⟨d', hvlc⟩ := readVlc_code (s := s.atCoef coefs sp k d) h.root h.free hc hlen hsym hbound hs
    (hin.trans (Nat.le_add_right _ _))
  have hlook : look (fun s => s.tableOf bd.blkVlc) (s.atCoef coefs sp k d) = .ok (some tbl) (s.atCoef coefs sp k d) :=
    (look_apply _ _).trans (congrArg (fun o => EStateM.Result.ok o (s.atCoef coefs sp k d)) h.table)
  refine ⟨d', ?_⟩
  rw [readSymbol, M.bind_ok hlook, hvlc, State.atCoef, State.atCoef, ← Nat.add_assoc]
  rfl

/-! ### One coefficient -/

/-- The bits of two codes, one after the other. -/
theorem holds_moved_append {as bs : List Bool} (h : (s.moved k).Holds (as ++ bs)) :
    (s.moved k).Holds as ∧ (s.moved (k + as.length)).Holds bs := by
  obtain ⟨has, hbs⟩ := h.append
  exact ⟨has, State.moved_moved s k as.length ▸ hbs⟩

/-- A coefficient is a symbol that does not end the block, and gives its run and its value. -/
theorem readCoefficient {x : Coefficient} (h : BlockCodes s bd tbl) {rv : RvMap} (hx : isCoefficient rv tbl x)
    (hs : (s.moved k).Holds x.bits) :
    ∃ sym s1 d', sym ≠ rv.eobSym.toNat ∧ readSymbol bd (s.atCoef coefs sp k d) = .ok sym s1 ∧
      runValue bd rv sym s1 = .ok (x.run, x.val) (s.atCoef coefs sp (k + x.bits.length) d') := by
  rcases hx with ⟨c, hc, sym, hlen, hsym, heob, hesc, rfl⟩ |
    ⟨e, he, r, hr, l, hl, m, hm, run, lo, hi, ⟨hele, hrle, hlle, hmle⟩, hesc, hne, hrun, hlo, hhi, rfl⟩
  · obtain ⟨d', hread⟩ := readSymbol_atCoef (coefs := coefs) (sp := sp) (d := d) h hc hlen hsym hs
    refine ⟨sym, _, d', heob, hread, ?_⟩
    rw [runValue, if_neg hesc, dif_pos sym.isLt]
    rfl
  · obtain ⟨hs, hsm⟩ := holds_moved_append hs
    obtain ⟨hs, hsl⟩ := holds_moved_append hs
    obtain ⟨hse, hsr⟩ := holds_moved_append hs
    rw [List.length_append, ← Nat.add_assoc] at hsl
    rw [List.length_append, List.length_append, ← Nat.add_assoc, ← Nat.add_assoc] at hsm
    obtain ⟨d1, hread⟩ := readSymbol_atCoef (coefs := coefs) (sp := sp) (d := d) h he hele hesc hse
    obtain ⟨d2, hread2⟩ := readSymbol_atCoef (coefs := coefs) (sp := sp) (d := d1) h hr hrle hrun hsr
    obtain ⟨d3, hread3⟩ := readSymbol_atCoef (coefs := coefs) (sp := sp) (d := d2) h hl hlle hlo hsl
    obtain ⟨d4, hread4⟩ := readSymbol_atCoef (coefs := coefs) (sp := sp) (d := d3) h hm hmle hhi hsm
    refine ⟨rv.escSym.toNat, _, d4, fun h => hne (BitVec.eq_of_toNat_eq h), hread, ?_⟩
    rw [runValue, if_pos rfl, M.bind_ok hread2, M.bind_ok hread3, M.bind_ok hread4]
    simp only [List.length_append, ← Nat.add_assoc]
    rfl

/-- The coefficient read, at scan position `i`, is dequantised and stored. -/
theorem coefTurn_coefficient {x : Coefficient} {i pos : Nat} (h : BlockCodes s bd tbl)
    (hx : isCoefficient s.rvmaps[bd.rvmapSel] tbl x) (hs : (s.moved k).Holds x.bits) (hi : sp + x.run = i)
    (hin : i < bd.blkSize * bd.blkSize) (hscan : scan[i]? = some pos) (hpos : pos < bd.blkSize * bd.blkSize)
    (hbase : bd.base intra = some base) (hw : base[pos]? = some (w pos)) :
    ∃ d', coefTurn bd scan intra quant (s.atCoef coefs sp k d) = .ok true
      (s.atCoef (storeCoef w quant bd.blkSize coefs (scan[i]?.getD 0, x.val)) i (k + x.bits.length) d') := by
  obtain ⟨sym, s1, d', heob, hread, hval⟩ := readCoefficient (coefs := coefs) (sp := sp) (d := d) h hx hs
  have hlook : look (fun s => s.rvmaps[bd.rvmapSel]) (s.atCoef coefs sp k d) =
    .ok s.rvmaps[bd.rvmapSel] (s.atCoef coefs sp k d) := rfl
  have hadvance : updScratch (fun c => { c with scanPos := c.scanPos + x.run })
      (s.atCoef coefs sp (k + x.bits.length) d') = .ok () (s.atCoef coefs i (k + x.bits.length) d') :=
    congrArg (fun v => EStateM.Result.ok () (s.atCoef coefs v (k + x.bits.length) d')) hi
  have hspot : look (fun s => s.scratch.scanPos) (s.atCoef coefs i (k + x.bits.length) d') =
    .ok (i : Int) (s.atCoef coefs i (k + x.bits.length) d') := rfl
  have hdequant : liftExcept (dequant bd intra pos x.val quant) (s.atCoef coefs i (k + x.bits.length) d') =
      .ok (dequantWith (asr ((w pos).toNat * quant) 9) x.val) (s.atCoef coefs i (k + x.bits.length) d') := by
    rw [dequant_ok hbase hpos, dequantStep_eq hw]
    rfl
  refine ⟨d', ?_⟩
  rw [coefTurn, M.bind_ok hlook, M.bind_ok hread, if_neg heob, M.bind_ok hval, M.bind_ok hadvance, M.bind_ok hspot,
    if_neg (by omega), Int.toNat_natCast, hscan, Option.getD_some, M.bind_ok hdequant]
  rfl

/-- The end of the block ends the loop. -/
theorem coefTurn_end {e : VlcCode} (h : BlockCodes s bd tbl) (he : e ∈ tbl.codes) (hlen : e.bits.length ≤ 13)
    (hsym : e.sym = (s.rvmaps[bd.rvmapSel]).eobSym.toNat) (hs : (s.moved k).Holds e.bits) :
    ∃ d', coefTurn bd scan intra quant (s.atCoef coefs sp k d) = .ok false (s.atCoef coefs sp (k + e.bits.length) d') := by
  obtain ⟨d', hread⟩ := readSymbol_atCoef (coefs := coefs) (sp := sp) (d := d) h he hlen hsym hs
  have hlook : look (fun s => s.rvmaps[bd.rvmapSel]) (s.atCoef coefs sp k d) =
    .ok s.rvmaps[bd.rvmapSel] (s.atCoef coefs sp k d) := rfl
  refine ⟨d', ?_⟩
  rw [coefTurn, M.bind_ok hlook, M.bind_ok hread, if_pos rfl]
  rfl

/-! ### The loop -/

/-- The positions of `total` coefficients: each is a place of the block for which the base table has a value. -/
def PlacesFor (bd : Band) (scan : List Nat) (base : List (BitVec 16)) (w : Nat → BitVec 16) (total : Nat) : Prop :=
  total ≤ bd.blkSize * bd.blkSize ∧
    ∀ i, i < total → ∃ pos, scan[i]? = some pos ∧ pos < bd.blkSize * bd.blkSize ∧ base[pos]? = some (w pos)

/-- The coefficients after `j` scan positions, and the end of the block: each is stored in its place. -/
theorem repeatWhile_coefTurn {e : VlcCode} (h : BlockCodes s bd tbl) (he : e ∈ tbl.codes) (hlen : e.bits.length ≤ 13)
    (hsym : e.sym = (s.rvmaps[bd.rvmapSel]).eobSym.toNat) (hbase : bd.base intra = some base) {xs : List Coefficient}
    (hxs : ∀ x ∈ xs, isCoefficient s.rvmaps[bd.rvmapSel] tbl x) (hfirst : ∀ x, xs.head? = some x → 0 < j + x.run)
    (hplaces : PlacesFor bd scan base w (j + (xs.map Coefficient.run).sum))
    (hs : (s.moved k).Holds (xs.flatMap Coefficient.bits ++ e.bits)) {fuel : Nat} (hfuel : xs.length < fuel) :
    ∃ d', repeatWhile (coefTurn bd scan intra quant) fuel (s.atCoef coefs ((j : Int) - 1) k d) = .ok ()
      (s.atCoef ((coefPlaces scan j xs).foldl (storeCoef w quant bd.blkSize) coefs)
        ((j + (xs.map Coefficient.run).sum : Nat) - 1) (k + (xs.flatMap Coefficient.bits ++ e.bits).length) d') := by
  induction xs generalizing coefs j k d fuel with
  | nil =>
    obtain ⟨fuel, rfl⟩ : ∃ f, fuel = f + 1 := ⟨fuel - 1, by simp at hfuel; omega⟩
    obtain ⟨d', hend⟩ := coefTurn_end (scan := scan) (intra := intra) (quant := quant) (coefs := coefs)
      (sp := (j : Int) - 1) (d := d) h he hlen hsym hs
    exact ⟨d', by rw [repeatWhile, M.bind_ok hend]; rfl⟩
  | cons x xs ih =>
    obtain ⟨fuel, rfl⟩ : ∃ f, fuel = f + 1 := ⟨fuel - 1, by omega⟩
    rw [List.length_cons] at hfuel
    rw [List.flatMap_cons, List.append_assoc] at hs
    rw [List.map_cons, List.sum_cons, ← Nat.add_assoc] at hplaces
    obtain ⟨hsx, hsrest⟩ := holds_moved_append hs
    have hrun := hfirst x rfl
    obtain ⟨pos, hscan, hpos, hw⟩ := hplaces.2 (j + x.run - 1) (by omega)
    have htotal := hplaces.1
    obtain ⟨d1, hturn⟩ := coefTurn_coefficient (quant := quant) (coefs := coefs) (d := d) (i := j + x.run - 1) h
      (hxs x List.mem_cons_self) hsx (sp := (j : Int) - 1) (by omega) (by omega) hscan hpos hbase hw
    obtain ⟨d2, hrest⟩ := ih (coefs := storeCoef w quant bd.blkSize coefs (scan[j + x.run - 1]?.getD 0, x.val))
      (j := j + x.run) (d := d1) (fun y hy => hxs y (List.mem_cons_of_mem x hy)) (fun _ _ => by omega) hplaces hsrest
      (Nat.lt_of_succ_lt_succ hfuel)
    have hsp : ((j + x.run - 1 : Nat) : Int) = ((j + x.run : Nat) : Int) - 1 := by omega
    rw [← hsp] at hrest
    refine ⟨d2, ?_⟩
    rw [repeatWhile, M.bind_ok hturn, if_pos rfl, hrest, coefPlaces, List.foldl_cons, List.flatMap_cons, List.append_assoc,
      List.length_append (as := x.bits), List.map_cons, List.sum_cons]
    simp only [Nat.add_assoc]

end Sys2Proof.Machine
end

section
/-! SUPPORT. DECBLK (44_coeff_dequant.md R285): what follows the coefficient loop, and the block that a lone DC
coefficient gives (R299). -/

namespace Sys2Proof.Machine

open Sys2Proof.Claims

variable {s : State} {p b t m blk n off : Nat} {bd : Band} {mb : Mb} {tbl : VlcTable} {tx : InvTx} {k1 : Fin 4}
  {scan : List Nat} {base : List (BitVec 16)} {w : Nat → BitVec 16} {xs : List Coefficient} {e : VlcCode}
  {coefs : Vector Coef 64 × Vector Bool 8} {o : KernelOut} {dc : Coef}

/-! ### States that differ in the working state -/

/-- The engine `s` with another memory and working state, its cursor at bit `i`, and `d` draws. -/
def State.working (s : State) (mem : Memory) (c : Scratch) (i d : Nat) : State :=
  { s with mem := mem, scratch := c, br := atBit s i, draws := d }

/-- A kernel that stayed in 32 bits writes the same whatever the working state is. -/
theorem State.writeBlock_working (hok : kernelOk o = true) (c : Scratch) (i d : Nat) (dst : Dst) (pitch : Nat) :
    (s.working s.mem c i d).writeBlock dst pitch n o = s.working (s.writeBlock dst pitch n o).mem c i d := by
  simp only [State.writeBlock, kernelStores, hok, if_true]
  rfl

theorem State.writeBlock_hasBuffer (dst : Dst) (pitch : Nat) (p b k : Nat) :
    (s.writeBlock dst pitch n o).hasBuffer p b k = s.hasBuffer p b k := State.hasBuffer_setBuffer ..

/-- The window of a prediction is asked of the band alone, and its buffers are those before the block was written. -/
theorem checkMc_working (dst : Dst) (pitch : Nat) (c : Scratch) (i d : Nat) (q : McOps) (ty : Nat) :
    checkMc q m ty none (s.working (s.writeBlock dst pitch n o).mem c i d) = checkMc q m ty none s := by
  have hband : (s.working (s.writeBlock dst pitch n o).mem c i d).band? q.p q.b = s.band? q.p q.b := rfl
  have hbuf (k : Nat) : (s.working (s.writeBlock dst pitch n o).mem c i d).hasBuffer q.p q.b k = s.hasBuffer q.p q.b k :=
    State.writeBlock_hasBuffer dst pitch q.p q.b k
  simp only [checkMc, hband, hbuf]

/-! ### After the loop -/

/-- No coefficient yet: the places of the block are 0, and no flag is set. -/
def blankCoefs (s : State) (n : Nat) : Vector Coef 64 × Vector Bool 8 :=
  (Vector.ofFn fun i => if i.val < n * n then 0 else s.scratch.trvec[i], noColFlags)

/-- `prev_dc` added to the block's DC coefficient. -/
def blockDc (s : State) (coefs : Vector Coef 64 × Vector Bool 8) : Coef :=
  wrap32 (s.scratch.prevDc.toInt + (coefs.1[0]).toInt)

/-- What the inverse transform takes: an intra block of a 2D band has `prev_dc` added. -/
def blockInput (s : State) (bd : Band) (mb : Mb) (coefs : Vector Coef 64 × Vector Bool 8) :
    Vector Coef 64 × Vector Bool 8 :=
  if mb.type = 0 ∧ bd.is2d = true then
    (coefs.1.set 0 (blockDc s coefs), coefs.2.set 0 (coefs.2[0] || decide (blockDc s coefs ≠ 0)))
  else coefs

/-- The samples of a decoded block before its prediction. -/
def blockOut (s : State) (bd : Band) (mb : Mb) (tx : InvTx) (coefs : Vector Coef 64 × Vector Bool 8) : KernelOut :=
  invKernel s.params.kernels tx (blockInput s bd mb coefs).1 (blockInput s bd mb coefs).2

/-- A decoded block before its prediction. -/
def State.transformed (s : State) (p b off : Nat) (bd : Band) (mb : Mb) (tx : InvTx)
    (coefs : Vector Coef 64 × Vector Bool 8) : State :=
  s.writeBlock ⟨p, b, s.rot.dstBuf, off⟩ bd.pitch tx.size (blockOut s bd mb tx coefs)

/-- The memory after DECBLK. -/
def decodedMem (s : State) (p b off : Nat) (bd : Band) (mb : Mb) (tx : InvTx) (k1 : Fin 4)
    (coefs : Vector Coef 64 × Vector Bool 8) : Memory :=
  let written := s.transformed p b off bd mb tx coefs
  if mb.type = 0 then written.mem
  else (written.mcWrite (forwardOps s p b off bd mb k1) tx.size true
    (written.predicted (forwardOps s p b off bd mb k1) (forwardType bd mb))).mem

/-- The working state with the block's coefficients takes the transform's input. -/
theorem addPrevDc_step (sp : Int) (i d : Nat) : ∃ c,
    (if (mbContext s.params.codec bd mb).intra && bd.is2d then updScratch addPrevDc else done)
        (s.working s.mem { s.scratch with trvec := coefs.1, colFlags := coefs.2, scanPos := sp } i d) =
      .ok () (s.working s.mem c i d) ∧
    c.trvec = (blockInput s bd mb coefs).1 ∧ c.colFlags = (blockInput s bd mb coefs).2 := by
  have hintra : (mbContext s.params.codec bd mb).intra = decide (mb.type = 0) := rfl
  unfold blockInput
  by_cases h : mb.type = 0 ∧ bd.is2d = true
  · have htest : ((mbContext s.params.codec bd mb).intra && bd.is2d) = true := by simp [hintra, h]
    rw [if_pos h, htest, if_pos rfl]
    exact ⟨_, rfl, rfl, rfl⟩
  · have htest : ((mbContext s.params.codec bd mb).intra && bd.is2d) = false := by
      rw [hintra]
      exact Bool.eq_false_iff.mpr fun h' => h (by simpa using h')
    rw [if_neg h, htest, if_neg Bool.false_ne_true]
    exact ⟨_, rfl, rfl, rfl⟩

theorem transformBlock_ok (h : ready s p b bd) (hin : blockIn bd off tx.size) {c : Scratch} {i d : Nat}
    (hc : c.trvec = (blockInput s bd mb coefs).1) (hf : c.colFlags = (blockInput s bd mb coefs).2)
    (hok : kernelOk (blockOut s bd mb tx coefs) = true) :
    transformBlock p b bd tx off (s.working s.mem c i d) =
      .ok () (s.working (s.transformed p b off bd mb tx coefs).mem c i d) := by
  have hwrite := s.writeBlock_working (n := tx.size) hok c i d ⟨p, b, s.rot.dstBuf, off⟩ bd.pitch
  have hcheck := checkBlockWrite_of_ready (s := s.working s.mem c i d) h hin
  rw [transformBlock, M.bind_ok (look_apply _ _)]
  refine (sub_ok hcheck).trans ((update_apply _ _).trans (congrArg (EStateM.Result.ok ()) ?_))
  rw [State.transformed, ← hwrite, blockOut, ← hc, ← hf]
  rfl

/-- The prediction is added to a block that is not intra. -/
theorem predictDecoded (hkind : mb.type = 0 ∨ mb.type = 1 ∧ bd.refBuf = some k1) (hsize : bd.blkSize = tx.size)
    (hcheck : mb.type = 1 → checkMc (forwardOps s p b off bd mb k1) tx.size (forwardType bd mb) none s = none)
    (c : Scratch) (i d : Nat) :
    (if (mbContext s.params.codec bd mb).intra then done
      else predictBlock p b bd (mbContext s.params.codec bd mb) off true)
        (s.working (s.transformed p b off bd mb tx coefs).mem c i d) =
      .ok () (s.working (decodedMem s p b off bd mb tx k1 coefs) c i d) := by
  have hintra : (mbContext s.params.codec bd mb).intra = decide (mb.type = 0) := rfl
  rw [hintra, decodedMem]
  rcases hkind with htype | ⟨htype, href⟩
  · rw [if_pos (decide_eq_true htype), if_pos htype]
    rfl
  · have hinter : ¬mb.type = 0 := by rw [htype]; decide
    rw [if_neg (by simpa using hinter), if_neg hinter]
    refine (predictBlock_forward htype href ?_ _).trans ?_
    · rw [hsize]
      exact (checkMc_working _ _ _ _ _ _ _).trans (hcheck htype)
    · rw [hsize]
      rfl

/-- The coefficients that follow one another in the stream, up to the end of the block. -/
structure CodedBlock (s : State) (bd : Band) (tbl : VlcTable) (w : Nat → BitVec 16) (scan : List Nat) (intra : Bool)
    (xs : List Coefficient) (e : VlcCode) : Prop where
  codes : BlockCodes s bd tbl
  coefficients : ∀ x ∈ xs, isCoefficient s.rvmaps[bd.rvmapSel] tbl x
  first : ∃ x, xs.head? = some x ∧ 0 < x.run
  places : ∃ base, bd.base intra = some base ∧ PlacesFor bd scan base w (xs.map Coefficient.run).sum
  ends : e ∈ tbl.codes ∧ e.bits.length ≤ 13 ∧ e.sym = (s.rvmaps[bd.rvmapSel]).eobSym.toNat
  holds : s.Holds (xs.flatMap Coefficient.bits ++ e.bits)

/-- A coefficient has at least one bit. -/
theorem coefficient_bits_ne_nil {rv : RvMap} {x : Coefficient} (h : BlockCodes s bd tbl) (hx : isCoefficient rv tbl x) :
    x.bits ≠ [] := by
  rcases hx with ⟨c, hc, -, -, -, -, -, rfl⟩ | ⟨c, hc, -, -, -, -, -, -, -, -, -, -, -, -, -, -, -, -, rfl⟩
  · exact h.nonempty c hc
  · simp [h.nonempty c hc]

theorem length_le_flatMap_bits (h : ∀ x ∈ xs, x.bits ≠ []) : xs.length ≤ (xs.flatMap Coefficient.bits).length := by
  induction xs with
  | nil => exact le_rfl
  | cons x xs ih =>
    have hx := List.length_pos_iff.mpr (h x List.mem_cons_self)
    have hxs := ih fun y hy => h y (List.mem_cons_of_mem x hy)
    rw [List.flatMap_cons, List.length_append, List.length_cons]
    omega

/-- The loop over the coefficients of a block. -/
theorem readLoop_coefTurn {intra : Bool} {quant : Int} (h : CodedBlock s bd tbl w scan intra xs e) : ∃ sp d,
    readLoop (coefTurn bd scan intra quant) (s.atCoef coefs (-1) 0 s.draws) = .ok ()
      (s.atCoef ((coefPlaces scan 0 xs).foldl (storeCoef w quant bd.blkSize) coefs) sp
        (xs.flatMap Coefficient.bits ++ e.bits).length d) ∧
    0 ≤ sp ∧ sp < (bd.blkSize * bd.blkSize : Nat) := by
  obtain ⟨x, hhead, hrun⟩ := h.first
  obtain ⟨base, hbase, hplaces⟩ := h.places
  obtain ⟨he, hlen, hsym⟩ := h.ends
  have hne := h.codes.nonempty e he
  have hcount := length_le_flatMap_bits fun y hy => coefficient_bits_ne_nil h.codes (h.coefficients y hy)
  obtain ⟨-, hin⟩ := h.holds.bound_and_within (by simp [hne])
  have hfuel : xs.length < s.loopFuel := by
    have := List.length_pos_iff.mpr hne
    rw [List.length_append] at hin
    unfold State.loopFuel
    omega
  have hsum : 0 < (xs.map Coefficient.run).sum := by
    cases xs with
    | nil => cases hhead
    | cons y ys =>
      obtain rfl : y = x := Option.some.inj hhead
      rw [List.map_cons, List.sum_cons]
      omega
  rw [← Nat.zero_add (xs.map Coefficient.run).sum] at hplaces
  obtain ⟨d, hloop⟩ := repeatWhile_coefTurn (j := 0) (k := 0) (d := s.draws) (quant := quant) (coefs := coefs) h.codes he hlen
    hsym hbase h.coefficients (fun y hy => by obtain rfl := Option.some.inj (hhead.symm.trans hy); omega) hplaces
    h.holds hfuel
  rw [Nat.zero_add, Nat.zero_add] at hloop
  have hmax := hplaces.1
  exact ⟨((xs.map Coefficient.run).sum : Int) - 1, d, hloop, by omega, by omega⟩

/-- DECBLK of an intra block or of one of forward prediction. -/
theorem decodeBlock_ok (h : ready s p b bd) (hmb : s.mb? p b t m = some mb)
    (hkind : mb.type = 0 ∨ mb.type = 1 ∧ bd.refBuf = some k1 ∧ vectorsFit bd mb = true) (htx : bd.invTransform = some tx)
    (hsize : bd.blkSize = tx.size) (htsize : bd.transformSize = tx.size)
    (hin : blockIn bd (blockOffset bd mb blk) tx.size) (hscan : bd.scan = some scan)
    (hcoded : CodedBlock s bd tbl w scan (decide (mb.type = 0)) xs e)
    (hcoefs : coefs = (coefPlaces scan 0 xs).foldl (storeCoef w (mbQuant s.params.codec bd mb) tx.size)
      (blankCoefs s tx.size))
    (hok : kernelOk (blockOut s bd mb tx coefs) = true)
    (hcheck : mb.type = 1 →
      checkMc (forwardOps s p b (blockOffset bd mb blk) bd mb k1) tx.size (forwardType bd mb) none s = none) :
    ∃ c d, decodeBlock p b t m blk s = .ok () (s.working (decodedMem s p b (blockOffset bd mb blk) bd mb tx k1 coefs) c
      (s.br.index + (xs.flatMap Coefficient.bits ++ e.bits).length) d) := by
  have hfit : vectorsFit bd mb = true := hkind.elim vectorsFit_intra fun h => h.2.2
  have hwindow : (!blockFits (blockOffset bd mb blk : Nat) bd.pitch bd.transformSize bd.bufsize) = false := by
    rw [htsize, blockFits_of_blockIn hin]
    rfl
  have hclear : clearBlock bd.blkSize s = .ok () (s.atCoef (blankCoefs s tx.size) (-1) 0 s.draws) := by
    rw [hsize]
    rfl
  obtain ⟨sp, d, hloop, hlow, hhigh⟩ := readLoop_coefTurn (quant := mbQuant s.params.codec bd mb)
    (coefs := blankCoefs s tx.size) hcoded
  rw [hsize, ← hcoefs] at hloop
  have hloop : readLoop (coefTurn bd scan (mbContext s.params.codec bd mb).intra (mbContext s.params.codec bd mb).quant)
      (s.atCoef (blankCoefs s tx.size) (-1) 0 s.draws) =
        .ok () (s.atCoef coefs sp (xs.flatMap Coefficient.bits ++ e.bits).length d) := hloop
  obtain ⟨c, hdc, hc, hf⟩ := addPrevDc_step (s := s) (bd := bd) (mb := mb) (coefs := coefs) sp
    (s.br.index + (xs.flatMap Coefficient.bits ++ e.bits).length) d
  refine ⟨c, d, ?_⟩
  have hspot : decide (sp < 0 ∨ ((bd.blkSize * bd.blkSize : Nat) : Int) ≤ sp) = false := decide_eq_false (by omega)
  have hfits : decide (bd.blkSize < bd.transformSize) = false := decide_eq_false (by omega)
  have hlook (i : Nat) : look (fun s => s.scratch.scanPos) (s.atCoef coefs sp i d) = .ok sp (s.atCoef coefs sp i d) := rfl
  rw [decodeBlock, M.bind_ok (getBand_ok h.1), M.bind_ok (getMb_ok hmb), M.bind_ok (mbCtx_ok hfit)]
  simp only [hwindow, hscan, htx]
  rw [M.bind_ok (raiseIf_false _ _), M.bind_ok (need_some _ _ _), M.bind_ok (need_some _ _ _), M.bind_ok hclear,
    M.bind_ok hloop, M.bind_ok (hlook _), hspot, M.bind_ok (raiseIf_false _ _), hfits]
  refine (M.bind_ok hdc).trans ((M.bind_ok (raiseIf_false _ _)).trans ((M.bind_ok (transformBlock_ok h hin hc hf hok)).trans ?_))
  exact predictDecoded (hkind.imp id fun h => ⟨h.1, h.2.1⟩) hsize hcheck c _ d

theorem exec_decblk_ok {p b : BitVec 2} {s' : State} (hp : p ≠ 3) (h : ready s p.toNat b.toNat bd)
    (hmb : s.mb? p.toNat b.toNat s.opr.t s.opr.m = some mb) (hblk : s.opr.blk < 4)
    (hbody : decodeBlock p.toNat b.toNat s.opr.t s.opr.m s.opr.blk s = .ok () s') :
    exec (.decblk p b) s = .next s'.releaseScratch.complete :=
  command_ok (legalPlane_of_ne hp) (checkBlock_ok h hmb hblk) (finally_ok hbody)

end Sys2Proof.Machine
end

section
/-! SUPPORT. The kernels on a block of a lone DC coefficient (44_coeff_dequant.md R299): they see no more of their input
than the block's own places and columns. -/

namespace Sys2Proof.Machine

open Sys2Proof.Claims

variable {n : Nat} {inp inp' : Vector Coef 64} {flags flags' : Vector Bool 8} {tr : List T32 → List T32}
  {pre : Nat → List T32 → List T32} {post : T32 → T32} {dc : Coef}

/-! ### What a kernel reads -/

section reads

variable (hinp : ∀ i, i < n * n → inp[i]?.getD 0 = inp'[i]?.getD 0)
  (hflags : ∀ c, c < n → flagOf flags c = flagOf flags' c)

include hinp

theorem coefAt_congr {r c : Nat} (hr : r < n) (hc : c < n) : coefAt n inp r c = coefAt n inp' r c := by
  have hlt : n * r + c < n * n := calc
    n * r + c < n * r + n := by omega
    _ = n * (r + 1) := by rw [Nat.mul_succ]
    _ ≤ n * n := Nat.mul_le_mul_left n hr
  rw [coefAt, coefAt, hinp _ hlt]

theorem inRow_congr {r : Nat} (hr : r < n) : inRow n inp r = inRow n inp' r :=
  List.map_congr_left fun _ hc => coefAt_congr hinp hr (List.mem_range.mp hc)

theorem inColumn_congr {c : Nat} (hc : c < n) : inColumn n inp c = inColumn n inp' c :=
  List.map_congr_left fun _ hr => coefAt_congr hinp (List.mem_range.mp hr) hc

theorem kernelRow_congr : kernelRow n tr post inp = kernelRow n tr post inp' := by
  refine congrArg (byRows n) (List.map_congr_left fun r hr => ?_)
  rw [inRow_congr hinp (List.mem_range.mp hr)]

include hflags

theorem kernelColumn_congr : kernelColumn n tr post inp flags = kernelColumn n tr post inp' flags' := by
  refine congrArg (byColumns n) (List.map_congr_left fun c hc => ?_)
  rw [inColumn_congr hinp (List.mem_range.mp hc), hflags c (List.mem_range.mp hc)]

theorem kernel2D_congr : kernel2D n tr pre post inp flags = kernel2D n tr pre post inp' flags' := by
  have hcolumns : columnPass n tr pre inp flags = columnPass n tr pre inp' flags' :=
    List.map_congr_left fun c hc => by rw [inColumn_congr hinp (List.mem_range.mp hc), hflags c (List.mem_range.mp hc)]
  rw [kernel2D, hcolumns, kernel2D]

end reads

/-- A default kernel reads the places and the columns of its block. -/
theorem standardKernel_congr (tx : InvTx) (hinp : ∀ i, i < tx.size * tx.size → inp[i]?.getD 0 = inp'[i]?.getD 0)
    (hflags : ∀ c, c < tx.size → flagOf flags c = flagOf flags' c) :
    standardKernel tx inp flags = standardKernel tx inp' flags' := by
  cases tx with
  | haar8 | slant8 | haar4 | slant4 => exact kernel2D_congr hinp hflags
  | haarrow8 | slantrow8 | haarrow4 | slantrow4 => exact kernelRow_congr hinp
  | haarcol8 | slantcol8 | haarcol4 | slantcol4 => exact kernelColumn_congr hinp hflags
  | copy8 => exact congrArg (byRows 8) (List.map_congr_left fun r hr => inRow_congr hinp (List.mem_range.mp hr))

/-! ### A lone DC coefficient -/

/-- Each pair of R240, R241 and the copy agrees on a DC-only block. -/
theorem standardKernel_dcPair {k : InvTx × DcTx} (hk : k ∈ dcPairs) (hlow : -2 ^ 28 < dc.toInt)
    (hhigh : dc.toInt < 2 ^ 28) : standardKernel k.1 (dcOnly dc) firstColumn = dcKernel k.2 dc := by
  simp only [dcPairs, List.mem_cons, List.not_mem_nil, or_false] at hk
  rcases hk with rfl | rfl | rfl | rfl | rfl | rfl | rfl | rfl | rfl
  · exact standardKernel_dcForm rfl hlow hhigh
  · exact standardKernel_dcForm rfl hlow hhigh
  · exact spreads_islant8.slantRow_dcOnly dc
  · exact spreads_islant8.slantColumn_dcOnly dc
  · refine congrArg (byRows 8) (List.map_congr_left fun r _ => ?_)
    refine (inRow_dcOnly (by decide) dc r).trans (List.map_congr_left fun c _ => ?_)
    by_cases hr : r = 0 <;> simp [dcEntry, DcTx.covers, DcTx.value, hr]
  · exact standardKernel_dcForm rfl hlow hhigh
  · exact standardKernel_dcForm rfl hlow hhigh
  · exact spreads_islant4.slantRow_dcOnly dc
  · exact spreads_islant4.slantColumn_dcOnly dc

/-- Without a coefficient the flag of column 0 does not matter. -/
theorem standardKernel_blank (tx : InvTx) :
    standardKernel tx (dcOnly 0) noColFlags = standardKernel tx (dcOnly 0) firstColumn := by
  cases tx <;> rfl

theorem flagOf_noColFlags (c : Nat) : flagOf noColFlags c = false := by
  simp only [flagOf, noColFlags, Vector.getElem?_replicate]
  split_ifs <;> rfl

/-- A block whose one coefficient is the DC `dc`, in whose column alone a flag may be set, and is when `dc` is not 0. -/
theorem standardKernel_loneDc {k : InvTx × DcTx} (hk : k ∈ dcPairs) (hlow : -2 ^ 28 < dc.toInt)
    (hhigh : dc.toInt < 2 ^ 28)
    (hinp : ∀ i, i < k.1.size * k.1.size → inp[i]?.getD 0 = if i = 0 then dc else 0)
    {flag : Bool} (hflags : ∀ c, c < k.1.size → flagOf flags c = (decide (c = 0) && flag)) (hdc : dc ≠ 0 → flag = true) :
    standardKernel k.1 inp flags = dcKernel k.2 dc := by
  have hinp' : ∀ i, i < k.1.size * k.1.size → inp[i]?.getD 0 = (dcOnly dc)[i]?.getD 0 := fun i hi => by
    rw [hinp i hi]
    simp only [dcOnly, Vector.getElem?_set, Vector.getElem?_replicate, eq_comm (a := 0)]
    split_ifs <;> rfl
  cases flag with
  | true =>
    refine (standardKernel_congr k.1 hinp' fun c hc => ?_).trans (standardKernel_dcPair hk hlow hhigh)
    rw [hflags c hc, flagOf_firstColumn, Bool.and_true]
  | false =>
    obtain rfl : dc = 0 := by_contra fun h => nomatch hdc h
    refine (standardKernel_congr k.1 hinp' fun c hc => ?_).trans
      ((standardKernel_blank k.1).trans (standardKernel_dcPair hk hlow hhigh))
    rw [hflags c hc, flagOf_noColFlags, Bool.and_false]

end Sys2Proof.Machine

namespace Sys2Proof.Machine

open Sys2Proof.Claims

variable {s : State} {n : Nat} {bd : Band} {mb : Mb} {w : Nat → BitVec 16} {quant val : Int} {dc : Coef}

/-- The coefficients of a block that has one, at place 0. -/
def loneCoef (s : State) (w : Nat → BitVec 16) (quant : Int) (n : Nat) (val : Int) :
    Vector Coef 64 × Vector Bool 8 := storeCoef w quant n (blankCoefs s n) (0, val)

theorem loneCoef_dc : (loneCoef s w quant n val).1[0] = dequantWith (asr ((w 0).toNat * quant) 9) val := by
  simp [loneCoef, storeCoef]

theorem blockInput_loneCoef_coefs (htype : mb.type = 0) (h2d : bd.is2d = true) {i : Nat} (hi : i < n * n) :
    (blockInput s bd mb (loneCoef s w quant n val)).1[i]?.getD 0 =
      if i = 0 then blockDc s (loneCoef s w quant n val) else 0 := by
  rw [blockInput, if_pos ⟨htype, h2d⟩]
  by_cases h0 : i = 0
  · subst h0
    simp
  · rw [if_neg h0, Vector.getElem?_set_ne _ (Ne.symm h0), loneCoef, storeCoef, Vector.getElem?_setIfInBounds_ne (Ne.symm h0),
      blankCoefs, Vector.getElem?_ofFn]
    simp only [hi, if_true]
    split_ifs <;> rfl

theorem blockInput_loneCoef_flags (htype : mb.type = 0) (h2d : bd.is2d = true) {c : Nat} (hc : c < n) :
    flagOf (blockInput s bd mb (loneCoef s w quant n val)).2 c = (decide (c = 0) &&
      (decide ((loneCoef s w quant n val).1[0] ≠ 0) || decide (blockDc s (loneCoef s w quant n val) ≠ 0))) := by
  rw [blockInput, if_pos ⟨htype, h2d⟩]
  by_cases h0 : c = 0
  · subst h0
    simp [flagOf, loneCoef, storeCoef, blankCoefs, noColFlags]
  · have hrest : flagOf (blankCoefs s n).2 c = false := flagOf_noColFlags c
    rw [flagOf, Vector.getElem?_set_ne _ (Ne.symm h0), loneCoef, storeCoef, Nat.zero_mod,
      Vector.getElem?_setIfInBounds_ne (Ne.symm h0), decide_eq_false h0, Bool.false_and]
    exact hrest

theorem dcPair_size {k : InvTx × DcTx} (hk : k ∈ dcPairs) : k.1.size = k.2.size := by
  revert k
  decide

theorem InvTx.size_pos (tx : InvTx) : 0 < tx.size := by cases tx <;> decide

/-- R299: a lone DC coefficient gives the DC form of the transform. -/
theorem blockOut_loneCoef {k : InvTx × DcTx} (hk : k ∈ dcPairs) (hkernels : s.params.kernels = .standard)
    (htype : mb.type = 0) (h2d : bd.is2d = true) (hdc : blockDc s (loneCoef s w quant k.1.size val) = dc)
    (hlow : -2 ^ 28 < dc.toInt) (hhigh : dc.toInt < 2 ^ 28) :
    blockOut s bd mb k.1 (loneCoef s w quant k.1.size val) = dcKernel k.2 dc := by
  have hflags {c : Nat} (hc : c < k.1.size) :=
    blockInput_loneCoef_flags (s := s) (bd := bd) (w := w) (quant := quant) (val := val) htype h2d hc
  have hcoefs {i : Nat} (hi : i < k.1.size * k.1.size) :=
    blockInput_loneCoef_coefs (s := s) (bd := bd) (w := w) (quant := quant) (val := val) htype h2d hi
  rw [hdc] at hflags hcoefs
  rw [blockOut, hkernels, invKernel]
  refine standardKernel_loneDc (dc := dc)
    (flag := decide ((loneCoef s w quant k.1.size val).1[0] ≠ 0) || decide (dc ≠ 0)) hk hlow hhigh ?_ ?_ ?_
  · exact fun _ => hcoefs
  · exact fun _ => hflags
  · exact fun hne => by rw [decide_eq_true hne, Bool.or_true]

theorem ne_maxCoef (hhigh : dc.toInt < 2 ^ 28) : dc.toInt ≠ 2 ^ 31 - 1 :=
  (hhigh.trans (by norm_num)).ne

/-- DECBLK of a lone DC coefficient. -/
theorem decodeBlock_loneDc {k : InvTx × DcTx} {p b t m blk : Nat} {tbl : VlcTable} {scan : List Nat} {e : VlcCode}
    {x : Coefficient} (hk : k ∈ dcPairs) (hkernels : s.params.kernels = .standard) (h : ready s p b bd)
    (hmb : s.mb? p b t m = some mb) (htype : mb.type = 0) (h2d : bd.is2d = true) (htx : bd.invTransform = some k.1)
    (hsize : bd.blkSize = k.1.size) (htsize : bd.transformSize = k.1.size)
    (hin : blockIn bd (blockOffset bd mb blk) k.1.size) (hscan : bd.scan = some scan) (hscan0 : scan[0]? = some 0)
    (hrun : x.run = 1) (hcoded : CodedBlock s bd tbl w scan (decide (mb.type = 0)) [x] e)
    (hdc : wrap32 (s.scratch.prevDc.toInt +
      (dequantWith (asr ((w 0).toNat * mbQuant s.params.codec bd mb) 9) x.val).toInt) = dc)
    (hlow : -2 ^ 28 < dc.toInt) (hhigh : dc.toInt < 2 ^ 28) :
    ∃ c d, decodeBlock p b t m blk s = .ok () (s.working
      (s.writeBlock ⟨p, b, s.rot.dstBuf, (blockOffset bd mb blk : Nat)⟩ bd.pitch k.1.size (dcKernel k.2 dc)).mem c
      (s.br.index + (x.bits.length + e.bits.length)) d) := by
  have hcoefs : loneCoef s w (mbQuant s.params.codec bd mb) k.1.size x.val = (coefPlaces scan 0 [x]).foldl
      (storeCoef w (mbQuant s.params.codec bd mb) k.1.size) (blankCoefs s k.1.size) := by
    simp [coefPlaces, hscan0, hrun, loneCoef]
  have hout := blockOut_loneCoef (mb := mb) hk hkernels htype h2d
    (by rw [blockDc, loneCoef_dc]; exact hdc) hlow hhigh
  have hok : kernelOk (blockOut s bd mb k.1 (loneCoef s w (mbQuant s.params.codec bd mb) k.1.size x.val)) = true := by
    rw [hout]
    exact dcKernel_ok k.2 (ne_maxCoef hhigh)
  obtain ⟨c, d, hbody⟩ := decodeBlock_ok (k1 := 0) h hmb (.inl htype) htx hsize htsize hin hscan hcoded hcoefs hok
    fun hinter => by rw [htype] at hinter; cases hinter
  refine ⟨c, d, hbody.trans ?_⟩
  rw [decodedMem, if_pos htype, State.transformed, hout, List.flatMap_singleton, List.length_append]

/-- A symbol that does not end the block. -/
theorem exists_other_code {rv : RvMap} {tbl : VlcTable} {x : Coefficient} (hx : isCoefficient rv tbl x) :
    ∃ a ∈ tbl.codes, a.sym ≠ rv.eobSym.toNat := by
  rcases hx with ⟨c, hc, sym, -, hsym, heob, -, rfl⟩ | ⟨c, hc, -, -, -, -, -, -, -, -, -, -, hsym, hne, -, -, -, rfl⟩
  · exact ⟨c, hc, fun h => heob (by omega)⟩
  · exact ⟨c, hc, fun h => hne (BitVec.eq_of_toNat_eq (by omega))⟩

end Sys2Proof.Machine

namespace Sys2Proof.Proofs.CoeffFamily

open Sys2Proof.Machine Sys2Proof.Claims

/-- Settles O32: the coefficient loop stores each coefficient in its place, then the block is transformed and predicted. -/
theorem flatBlock : Obligations.FlatBlock := by
  refine ⟨?_, ?_⟩
  · intro p b s bd mb tbl c e scan base w sym hp hkernels hmem hready hmb hblk htype h2d k hk htx hsize htsize hpitch hin
      hscan hscan0 hbase hw htbl hcodes rv hsym heob hesc hend hrun q dc hlow hhigh off
    have hholds := holds_of_codesAhead hcodes
    obtain ⟨hroot, hfree, hc, he, hclen, helen, -⟩ := hcodes
    have hplace : 0 < bd.blkSize * bd.blkSize := by rw [hsize]; exact Nat.mul_pos k.1.size_pos k.1.size_pos
    have hcoded : CodedBlock s bd tbl (fun _ => w) scan (decide (mb.type = 0))
        [⟨c.bits, 1, (rv.valtab[sym]).toInt⟩] e := {
      codes := ⟨htbl, hroot, hfree, fun c' hc' => bits_ne_nil hfree hc he (by omega) hc'⟩
      coefficients := fun y hy => by
        rw [List.mem_singleton.mp hy]
        exact .inl ⟨c, hc, sym, hclen, hsym, heob, hesc, by rw [hrun]; rfl⟩
      first := ⟨_, rfl, Nat.one_pos⟩
      places := ⟨base, by rw [htype]; exact hbase, hplace, fun i hi => by
        obtain rfl : i = 0 := Nat.lt_one_iff.mp hi
        exact ⟨0, hscan0, hplace, hw⟩⟩
      ends := ⟨he, helen, hend⟩
      holds := by rw [List.flatMap_singleton]; exact hholds }
    obtain ⟨c', d', hbody⟩ := decodeBlock_loneDc hk hkernels hready hmb htype h2d htx hsize htsize hin hscan hscan0 rfl
      hcoded rfl hlow hhigh
    let dst : Dst := ⟨p.toNat, b.toNat, s.rot.dstBuf, off⟩
    have hpair := dcPair_size hk
    have hmax : dc.toInt ≠ 2 ^ 31 - 1 := ne_maxCoef hhigh
    obtain ⟨f, hblock, -⟩ := dcKernel_isBlock k.2 dc
    have honly : onlyBlock s (s.writeBlock dst bd.pitch k.2.size (dcKernel k.2 dc)) p.toNat b.toNat s.rot.dstBuf off
      bd.pitch k.2.size := hblock.onlyBlock_writeBlock (d := dst) hmem
    obtain ⟨arena, harena⟩ := s.writeBlock_of_ok dst bd.pitch k.1.size (dcKernel_ok k.2 hmax)
    refine ⟨_, exec_decblk_ok hp hready hmb hblk hbody, fun r x hr hx => ?_, ?_, ?_⟩
    · rw [hpair] at hr hx hpitch ⊢
      exact State.sample_writeBlock_dc (d := dst) hmem hready.2.2 (Int.natCast_nonneg _) hpitch hmax hr hx
    · rw [hpair]
      exact honly
    · rw [harena]
      rfl
  · intro p b s bd mb tbl e scan base w tx xs k1 hp hready hmb hblk hkind htx hsize htsize n off hin hscan hplaces hbase hw
      htbl hroot hfree rv hxs hfirst hsum he hlen hsym bits hbits blank read dc inp out t1 o hok hcheck written
    obtain ⟨x, hhead, hrun⟩ := hfirst
    obtain ⟨a, ha, hother⟩ := exists_other_code (hxs x (List.mem_of_mem_head? hhead))
    have hbase' : bd.base (decide (mb.type = 0)) = some base := by
      rw [← hbase, Band.base]
      simp only [decide_eq_true_eq]
    have hcoded : CodedBlock s bd tbl w scan (decide (mb.type = 0)) xs e := {
      codes := ⟨htbl, hroot, hfree, fun c hc => bits_ne_nil hfree ha he (hsym ▸ hother) hc⟩
      coefficients := hxs
      first := ⟨x, hhead, hrun⟩
      places := ⟨base, hbase', hsize ▸ hsum, fun i hi => by
        obtain ⟨pos, hpos, hlt⟩ := hplaces i (hi.trans_le hsum)
        exact ⟨pos, hpos, hsize ▸ hlt, hw pos hlt⟩⟩
      ends := ⟨he, hlen, hsym⟩
      holds := hbits }
    obtain ⟨c, d, hbody⟩ := decodeBlock_ok hready hmb hkind htx hsize htsize hin hscan hcoded rfl hok hcheck
    exact ⟨_, exec_decblk_ok hp hready hmb hblk hbody, rfl⟩

end Sys2Proof.Proofs.CoeffFamily
end

section
/-! SUPPORT. A part of a command is oblivious of `STATUS.ERR`, of `RES` and of the operand registers: it neither reads nor
writes them, and what it raises is an error kind other than 0 (60_exceptions.md R400 to R403). One lemma for each program of
the band layer, along its steps. -/

namespace Sys2Proof.Machine

variable {α β : Type}

/-- The engine with other values in `STATUS.ERR`, the operand registers and `RES`. -/
def State.over (s : State) (e : ErrKind) (o : Opr) (r : BitVec 64) : State := { s with err := e, opr := o, res := r }

/-- The program does the same whatever `STATUS.ERR`, the operand registers and `RES` are, and keeps them. -/
def Oblivious (m : M α) : Prop := ∀ s,
  (∃ a s', m s = .ok a s' ∧ ∀ e o r, m (s.over e o r) = .ok a (s'.over e o r)) ∨
  ∃ k s', k ≠ ErrKind.none ∧ m s = .error k s' ∧ ∀ e o r, m (s.over e o r) = .error k (s'.over e o r)

/-- `f` reads none of `STATUS.ERR`, the operand registers and `RES`; `rfl` proves it of one that names none of them. -/
def Ignores (f : State → α) : Prop := (fun s e o r => f (State.over s e o r)) = fun s _ _ _ => f s

theorem Ignores.over {f : State → α} (hf : Ignores f) (s : State) (e : ErrKind) (o : Opr) (r : BitVec 64) :
    f (s.over e o r) = f s := congrFun (congrFun (congrFun (congrFun hf s) e) o) r

/-- `f` reads none of the three and keeps them; `rfl` proves it of one that names none of them. -/
def KeepsOver (f : State → State) : Prop := (fun s e o r => f (State.over s e o r)) = fun s e o r => (f s).over e o r

theorem keepsOver_iff {f : State → State} : KeepsOver f ↔ ∀ s e o r, f (s.over e o r) = (f s).over e o r := by
  simp only [KeepsOver, funext_iff]

theorem KeepsOver.over {f : State → State} (hf : KeepsOver f) (s : State) (e : ErrKind) (o : Opr) (r : BitVec 64) :
    f (s.over e o r) = (f s).over e o r := keepsOver_iff.mp hf s e o r

namespace Oblivious

/-! ### Putting programs together -/

theorem bind {m : M α} {f : α → M β} (hm : Oblivious m) (hf : ∀ a, Oblivious (f a)) : Oblivious (m >>= f) := by
  intro s
  rcases hm s with ⟨a, s', h, hover⟩ | ⟨k, s', hk, h, hover⟩
  · rcases hf a s' with ⟨c, t, h', hover'⟩ | ⟨k, t, hk, h', hover'⟩
    · exact .inl ⟨c, t, (M.bind_ok h).trans h', fun e o r => (M.bind_ok (hover e o r)).trans (hover' e o r)⟩
    · exact .inr ⟨k, t, hk, (M.bind_ok h).trans h', fun e o r => (M.bind_ok (hover e o r)).trans (hover' e o r)⟩
  · exact .inr ⟨k, s', hk, M.bind_error h, fun e o r => M.bind_error (hover e o r)⟩

theorem ite {c : Prop} [Decidable c] {m n : M α} (hm : Oblivious m) (hn : Oblivious n) :
    Oblivious (if c then m else n) := by
  split
  · exact hm
  · exact hn

theorem dite {c : Prop} [Decidable c] {m : c → M α} {n : ¬c → M α} (hm : ∀ h, Oblivious (m h))
    (hn : ∀ h, Oblivious (n h)) : Oblivious (if h : c then m h else n h) := by
  split
  · exact hm _
  · exact hn _

theorem pure {a : α} : Oblivious (pure a : M α) := fun s => .inl ⟨a, s, rfl, fun _ _ _ => rfl⟩

theorem done : Oblivious done := pure

theorem raise {k : ErrKind} (hk : k ≠ .none) : Oblivious (raise k : M α) :=
  fun s => .inr ⟨k, s, hk, rfl, fun _ _ _ => rfl⟩

theorem raiseIf {bad : Bool} {k : ErrKind} (hk : k ≠ .none) : Oblivious (raiseIf bad k) := by
  cases bad
  · exact done
  · exact raise hk

theorem look {f : State → α} (hf : Ignores f) : Oblivious (look f) :=
  fun s => .inl ⟨f s, s, rfl, fun e o r => congrArg (fun a => EStateM.Result.ok a (s.over e o r)) (hf.over s e o r)⟩

theorem need {k : ErrKind} {x : Option α} (hk : k ≠ .none) : Oblivious (need k x) := by
  cases x
  · exact raise hk
  · exact pure

theorem liftExcept {x : Except ErrKind α} (hx : ∀ k, x = .error k → k ≠ .none) : Oblivious (liftExcept x) := by
  cases x
  · exact raise (hx _ rfl)
  · exact pure

theorem update {f : State → State} (hf : KeepsOver f) :
    Oblivious (update f) := fun s => .inl ⟨(), f s, rfl, fun e o r => congrArg (EStateM.Result.ok ()) (hf.over s e o r)⟩

theorem forEach {f : α → M Unit} {l : List α} (hf : ∀ a, Oblivious (f a)) : Oblivious (forEach f l) := by
  induction l with
  | nil => exact done
  | cons a l ih => exact .bind (hf a) fun _ => ih

theorem repeatWhile {f : M Bool} (hf : Oblivious f) {n : Nat} : Oblivious (repeatWhile f n) := by
  induction n with
  | zero => exact raise nofun
  | succ n ih => exact .bind hf fun _ => .ite ih .done

/-- A program that looks at the state it starts from. -/
theorem withState {f : State → M α} (hf : ∀ s, Oblivious (f s))
    (hs : Ignores f) : Oblivious (fun s => f s s) := by
  intro s
  rcases hf s s with ⟨a, s', h, hover⟩ | ⟨k, s', hk, h, hover⟩
  · exact .inl ⟨a, s', h, fun e o r => (congrFun (hs.over s e o r) _).trans (hover e o r)⟩
  · exact .inr ⟨k, s', hk, h, fun e o r => (congrFun (hs.over s e o r) _).trans (hover e o r)⟩

theorem readLoop {f : M Bool} (hf : Oblivious f) : Oblivious (readLoop f) :=
  withState (f := fun s => Machine.repeatWhile f s.loopFuel) (fun _ => repeatWhile hf) rfl

/-- A head check that raises an error kind. -/
theorem sub {check : State → Option ErrKind} {body : M Unit} (hkind : ∀ s, check s ≠ some .none) (hb : Oblivious body)
    (hcheck : Ignores check) : Oblivious (sub check body) := by
  intro s
  cases hc : check s with
  | some k =>
    have hraises (s' : State) (h : check s' = some k) : Machine.sub check body s' = .error k s' := by rw [Machine.sub, h]
    exact .inr ⟨k, s, fun hk => hkind s (hk ▸ hc), hraises s hc,
      fun e o r => hraises _ ((hcheck.over s e o r).trans hc)⟩
  | none =>
    have hruns (s' : State) (h : check s' = none) : Machine.sub check body s' = body s' := by rw [Machine.sub, h]
    have hover (e : ErrKind) (o : Opr) (r : BitVec 64) := hruns (s.over e o r) ((hcheck.over s e o r).trans hc)
    rcases hb s with ⟨a, s', h, hbody⟩ | ⟨k, s', hk, h, hbody⟩
    · exact .inl ⟨a, s', (hruns s hc).trans h, fun e o r => (hover e o r).trans (hbody e o r)⟩
    · exact .inr ⟨k, s', hk, (hruns s hc).trans h, fun e o r => (hover e o r).trans (hbody e o r)⟩

theorem onError {m : M α} {repair : State → State} (hm : Oblivious m)
    (hr : KeepsOver repair) : Oblivious (onError m repair) := by
  intro s
  rcases hm s with ⟨a, s', h, hover⟩ | ⟨k, s', hk, h, hover⟩
  · exact .inl ⟨a, s', by rw [Machine.onError, h], fun e o r => by rw [Machine.onError, hover]⟩
  · exact .inr ⟨k, repair s', hk, by rw [Machine.onError, h], fun e o r => by rw [Machine.onError, hover, ← hr.over]⟩

theorem keepingCursor {m : M α} (hm : Oblivious m) : Oblivious (keepingCursor m) := by
  intro s
  rcases hm s with ⟨a, s', h, hover⟩ | ⟨k, s', hk, h, hover⟩
  · exact .inl ⟨a, s', by rw [Machine.keepingCursor, h], fun e o r => by rw [Machine.keepingCursor, hover]⟩
  · exact .inr ⟨k, _, hk, by rw [Machine.keepingCursor, h], fun e o r => by rw [Machine.keepingCursor, hover]; rfl⟩

/-! ### Head checks -/

theorem orBadState_ne_none (b : Bool) : orBadState b ≠ some .none := by cases b <;> decide

theorem firstError_ne_none {l : List (Bool × ErrKind)} (h : ∀ x ∈ l, x.2 ≠ ErrKind.none) :
    firstError l ≠ some .none := by
  induction l with
  | nil => exact nofun
  | cons x l ih =>
    unfold firstError
    split
    · exact fun hx => h x List.mem_cons_self (Option.some.inj hx)
    · exact ih fun y hy => h y (List.mem_cons_of_mem x hy)

theorem checkMc_ne_none {o : McOps} {n t : Nat} {t2 : Option Nat} (s : State) : checkMc o n t t2 s ≠ some .none := by
  unfold checkMc
  split
  · decide
  · exact firstError_ne_none (by simp)

theorem checkBlockWrite_ne_none {d : Dst} {pitch n : Nat} (s : State) : checkBlockWrite d pitch n s ≠ some .none :=
  firstError_ne_none (by simp)

/-! ### Single steps -/

theorem updHdr {f : Header → Header} : Oblivious (updHdr f) := .update rfl

theorem updScratch {f : Scratch → Scratch} : Oblivious (updScratch f) := .update rfl

theorem updBand {p b : Nat} {f : Band → Band} : Oblivious (updBand p b f) := .update rfl

theorem updMb {p b t m : Nat} {f : Mb → Mb} : Oblivious (updMb p b t m f) := .update rfl

theorem getBand {p b : Nat} : Oblivious (getBand p b) :=
  .withState (f := fun s => Machine.need _ (s.band? p b)) (fun _ => .need nofun) rfl

theorem getTile {p b t : Nat} : Oblivious (getTile p b t) :=
  .withState (f := fun s => Machine.need _ (s.tile? p b t)) (fun _ => .need nofun) rfl

theorem getMb {p b t m : Nat} : Oblivious (getMb p b t m) :=
  .withState (f := fun s => Machine.need _ (s.mb? p b t m)) (fun _ => .need nofun) rfl

theorem readError_ne_none (s : State) (n : Nat) : s.readError n ≠ some .none := by
  unfold State.readError
  split_ifs <;> decide

/-- A read that the bitstream and its padding may refuse. -/
theorem ofReadError {n : Nat} {m : M α} (val : State → α) (next : State → State)
    (hm : ∀ s, m s = match s.readError n with | some e => .error e s | none => .ok (val s) (next s))
    (hval : Ignores val)
    (hnext : KeepsOver next) : Oblivious m := by
  intro s
  have hover (e : ErrKind) (o : Opr) (r : BitVec 64) : (s.over e o r).readError n = s.readError n := rfl
  cases herr : s.readError n with
  | some k =>
    refine .inr ⟨k, s, fun hk => readError_ne_none s n (hk ▸ herr), by rw [hm, herr], fun e o r => ?_⟩
    rw [hm, hover, herr]
  | none =>
    refine .inl ⟨val s, next s, by rw [hm, herr], fun e o r => ?_⟩
    rw [hm, hover, herr, hval.over, hnext.over]

theorem readBits {n : Nat} : Oblivious (readBits n) :=
  .ofReadError (fun s => s.peek n) (fun s => (s.looked n).moved n) (fun _ => rfl) rfl rfl

theorem skipBits {n : Nat} : Oblivious (skipBits n) := .ofReadError (fun _ => ()) (fun s => s.moved n) (fun _ => rfl) rfl rfl

theorem alignBits : Oblivious alignBits := .withState (f := fun s => Machine.skipBits s.alignGap) (fun _ => .skipBits) rfl

theorem readFlag : Oblivious readFlag := .bind .readBits fun _ => .pure

theorem readField {n : Nat} : Oblivious (readField n) := .bind .readBits fun _ => .pure

/-! ### VLC tables and symbols -/

theorem peekIndex {n : Nat} : Oblivious (peekIndex n) := fun _ => .inl ⟨_, _, rfl, fun _ _ _ => rfl⟩

theorem vlcWalk {root depth : Nat} {codes : List VlcCode} {n : Nat} : Oblivious (vlcWalk root depth codes n) := by
  induction depth generalizing codes n with
  | zero => exact raise nofun
  | succ depth ih =>
    refine .bind .peekIndex fun idx => ?_
    cases vlcEntry root codes n idx with
    | code sym len => exact .bind .skipBits fun _ => .pure
    | empty => exact pure
    | sub group nb =>
      cases depth with
      | zero => exact raise nofun
      | succ depth => exact .bind .skipBits fun _ => ih

theorem vlcSymbol {t : VlcTable} {depth : Nat} : Oblivious (vlcSymbol t depth) := .keepingCursor .vlcWalk

theorem readVlc {t : Option VlcTable} : Oblivious (readVlc t) :=
  .bind (.need nofun) fun _ => .bind (.raiseIf nofun) fun _ => .bind .vlcSymbol fun _ =>
    .bind (.raiseIf nofun) fun _ => .pure

theorem buildInto48 {x : Except VlcError VlcTable} {failed : State → State}
    (hf : KeepsOver failed) : Oblivious (buildInto48 x failed) := by
  cases x with
  | ok t => exact fun _ => .inl ⟨_, _, rfl, fun _ _ _ => rfl⟩
  | error k =>
    exact fun s => .inr ⟨k.kind, failed s, by cases k <;> decide, rfl,
      fun e o r => congrArg (EStateM.Result.error k.kind) (hf.over s e o r)⟩

theorem huffBuild48 {d : HuffDesc} : Oblivious (huffBuild48 d) :=
  .withState (f := fun s => Machine.buildInto48 (huffBuild s.params d) fun s => { s with slot48 := none })
    (fun _ => .buildInto48 rfl) rfl

theorem getHuffReg {t : Nat} : Oblivious (getHuffReg t) :=
  .withState (f := fun s => Machine.need _ (s.huffReg? t)) (fun _ => .need nofun) rfl

end Oblivious

end Sys2Proof.Machine
end

section
/-! SUPPORT. The programs of the band layer are oblivious of `STATUS.ERR`, `RES` and the operand registers: BANDHDR's
(45_frame_engine.md R340, R353) and those of tiles, macroblocks and blocks (44_coeff_dequant.md R285 to R297). -/

namespace Sys2Proof.Machine.Oblivious

variable {p b t m n : Nat} {bd : Band} {mb : Mb}

/-! ### Huffman descriptors -/

theorem setHuffReg_over (s : State) (e : ErrKind) (o : Opr) (r : BitVec 64) (t : Nat) (h : HuffTab) :
    (s.over e o r).setHuffReg t h = (s.setHuffReg t h).over e o r := by
  unfold State.setHuffReg
  split_ifs <;> rfl

theorem updHuffReg {f : HuffTab → HuffTab} : Oblivious (updHuffReg t f) :=
  .bind .getHuffReg fun _ => .update <| keepsOver_iff.mpr fun s e o r => setHuffReg_over s e o r t _

theorem readValues {k : Nat} : Oblivious (readValues k n) := by
  induction n with
  | zero => exact pure
  | succ n ih => exact .bind .readBits fun _ => .bind ih fun _ => .pure

theorem readDesc : Oblivious (readDesc n) := .bind .readValues fun _ => .pure

theorem decodeCustom : Oblivious (decodeCustom t) := by
  have hbuild (new : HuffDesc) := Oblivious.onError (m := Machine.huffBuild48 new) .huffBuild48
    (repair := fun s => match s.huffReg? t with
      | some h => s.setHuffReg t { h with custDesc := { h.custDesc with numRows := 0 }, custTab := none }
      | none => s)
    (keepsOver_iff.mpr fun s e o r => by
      have hreg : (s.over e o r).huffReg? t = s.huffReg? t := rfl
      rw [hreg]
      cases s.huffReg? t with
      | some h => exact setHuffReg_over s e o r t _
      | none => rfl)
  exact .bind .readBits fun _ => .bind (.raiseIf nofun) fun _ => .bind .readDesc fun new => .bind .getHuffReg fun _ =>
    .bind (.ite .done <| .bind .updHuffReg fun _ => .bind (hbuild new) fun _ => .bind (.look rfl) fun _ => .updHuffReg)
      fun _ => .updHuffReg

theorem decodeHuffDesc {kind : VlcKind} {coded : Bool} : Oblivious (decodeHuffDesc t kind coded) :=
  .ite (.bind .readField fun _ => .bind .updHuffReg fun _ => .ite .decodeCustom .updHuffReg)
    (.bind (.look rfl) fun policy => by
      cases policy with
      | reuse => exact .done
      | default7 => exact .updHuffReg)

/-! ### Band headers -/

theorem readCorr {i : Nat} : Oblivious (readCorr p b i n) := by
  induction n generalizing i with
  | zero => exact done
  | succ n ih => exact .bind .readField fun _ => .bind .updBand fun _ => ih

theorem readCorrections : Oblivious (readCorrections p b) :=
  .bind .readBits fun _ => .bind .updBand fun _ => .bind (.look rfl) fun _ => .bind (.raiseIf nofun) fun _ => .readCorr

theorem readBandRvmap {coded : Bool} : Oblivious (readBandRvmap coded) := .ite (.bind .readBits fun _ => .pure) .pure

theorem readBandChecksum : Oblivious (readBandChecksum p b) :=
  .bind .readFlag fun _ => .bind .updBand fun _ => .ite (.bind .readField fun _ => .updBand) .done

theorem selectTransform4 {id : Nat} : Oblivious (selectTransform4 p b id) :=
  .bind (.need nofun) fun _ => .bind .getBand fun _ => .bind (.raiseIf nofun) fun _ => .bind (.ite .updHdr .done) fun _ =>
    .bind (.look rfl) fun _ => .bind .updBand fun _ => .raiseIf nofun

theorem selectQuant4 : Oblivious (selectQuant4 p b) := .bind (.look rfl) fun _ => .updBand

theorem bandSelection4 : Oblivious (bandSelection4 p b) :=
  .bind .readBits fun _ => .bind .selectTransform4 fun _ => .bind .readBits fun _ => .bind .getBand fun _ =>
    .bind (.raiseIf nofun) fun _ => .bind (.raiseIf nofun) fun _ => .bind (.look rfl) fun _ => .bind .updBand fun _ =>
    .bind .readField fun _ => .bind (.look rfl) fun _ => .bind (.raiseIf nofun) fun _ => .updBand

theorem checkSelection4 : Oblivious (checkSelection4 p b) :=
  .bind .getBand fun _ => .bind (.look rfl) fun _ => .bind (.ite (.bind .updBand fun _ => .raise nofun) .done) fun _ =>
    .bind (.raiseIf nofun) fun _ => .raiseIf nofun

theorem bandFields4 : Oblivious (bandFields4 p b) :=
  .bind .getBand fun _ => .bind .readFlag fun _ => .bind (.ite .skipBits .done) fun _ =>
    .bind .readBits fun _ => .bind (.raiseIf nofun) fun _ => .bind .updBand fun _ => .bind (.ite .updHdr .done) fun _ =>
    .bind .readBandChecksum fun _ => .bind .readBits fun _ => .bind (.raiseIf nofun) fun _ => .bind .updBand fun _ =>
    .bind .readFlag fun _ => .bind .updBand fun _ => .bind .readFlag fun _ => .bind .updBand fun _ =>
    .bind .readField fun _ => .bind .updBand fun _ => .bind .readFlag fun _ => .bind (.look rfl) fun _ =>
    .bind .getBand fun _ => .bind (.ite .bandSelection4 (.raiseIf nofun)) fun _ => .bind .checkSelection4 fun _ =>
    .bind .readFlag fun _ => .bind (.ite .decodeHuffDesc .updBand) fun _ =>
    .bind .readFlag fun _ => .bind .readBandRvmap fun _ => .bind .updBand fun _ =>
    .bind .readFlag fun _ => .ite .readCorrections .done

theorem bandHeader4 : Oblivious (bandHeader4 p b) :=
  .bind .readBits fun _ => .bind (.raiseIf nofun) fun _ => .bind .readBits fun _ => .bind (.raiseIf nofun) fun _ =>
    .bind .readFlag fun _ => .bind .updBand fun _ => .bind (.ite .done .bandFields4) fun _ =>
    .bind .selectQuant4 fun _ => .bind .alignBits fun _ => .bind .getBand fun _ => .raiseIf nofun

theorem extensionBlock5 : Oblivious extensionBlock5 :=
  .bind .readBits fun _ => .bind (.look rfl) fun _ => .ite .pure (.bind .skipBits fun _ => .pure)

theorem bandFields5 {f : BitVec 8} : Oblivious (bandFields5 p b f) :=
  .bind (.look rfl) fun _ => .bind (.ite .readBits .pure) fun _ => .bind .updBand fun _ =>
    .bind (.ite .readCorrections .done) fun _ => .bind .readBandRvmap fun _ => .bind .updBand fun _ =>
    .bind .decodeHuffDesc fun _ => .bind .readBandChecksum fun _ => .bind .readField fun _ => .bind .updBand fun _ =>
    .bind (.ite (.bind .alignBits fun _ => .readLoop .extensionBlock5) .done) fun _ => .alignBits

theorem bandHeader5 : Oblivious (bandHeader5 p b) :=
  .bind .readField fun _ => .bind .updBand fun _ => .ite .done .bandFields5

theorem bandHeader : Oblivious (bandHeader p b) :=
  .bind (.look rfl) fun codec => by
    cases codec with
    | indeo4 => exact .bandHeader4
    | indeo5 => exact .bandHeader5

/-! ### Blocks -/

theorem mbCtx : Oblivious (mbCtx bd mb) := .bind (.raiseIf nofun) fun _ => .look rfl

theorem predictSingle {o : McOps} {delta : Bool} : Oblivious (predictSingle o n t delta) :=
  .sub checkMc_ne_none (.update rfl) rfl

theorem predictBoth {o : McOps} {t2 : Nat} {delta : Bool} : Oblivious (predictBoth o n t t2 delta) :=
  .sub checkMc_ne_none (.update rfl) rfl

theorem predictBlock {c : MbCtx} {off : Nat} {delta : Bool} : Oblivious (predictBlock p b bd c off delta) :=
  .bind (.look rfl) fun _ => by
    dsimp only
    cases c.t1 with
    | none =>
      cases c.t2 with
      | none => exact .done
      | some t => exact .bind (.need nofun) fun _ => .predictSingle
    | some t =>
      cases c.t2 with
      | none => exact .bind (.need nofun) fun _ => .predictSingle
      | some t2 => exact .bind (.need nofun) fun _ => .bind (.need nofun) fun _ => .predictBoth

theorem readSymbol : Oblivious (readSymbol bd) := .bind (.look rfl) fun _ => .readVlc

theorem runValue {rv : RvMap} {sym : Nat} : Oblivious (runValue bd rv sym) :=
  .ite (.bind .readSymbol fun _ => .bind .readSymbol fun _ => .bind .readSymbol fun _ => .pure)
    (.dite (fun _ => .pure) fun _ => .raise nofun)

theorem dequant_error {intra : Bool} {pos : Nat} {val quant : Int} {k : ErrKind}
    (h : dequant bd intra pos val quant = .error k) : k ≠ .none := by
  unfold dequant at h
  cases hbase : bd.base intra <;> simp only [hbase] at h
  · cases h; decide
  · split_ifs at h
    cases h; decide

theorem coefTurn {scan : List Nat} {intra : Bool} {quant : Int} : Oblivious (coefTurn bd scan intra quant) :=
  .bind (.look rfl) fun _ => .bind .readSymbol fun _ => .ite .pure <| .bind .runValue fun _ =>
    .bind .updScratch fun _ => .bind (.look rfl) fun _ => .ite .pure <| .bind (.liftExcept fun _ => dequant_error) fun _ =>
    .bind .updScratch fun _ => .pure

theorem transformBlock {tx : InvTx} {off : Nat} : Oblivious (transformBlock p b bd tx off) :=
  .bind (.look rfl) fun _ => .sub checkBlockWrite_ne_none (.update rfl) rfl

theorem decodeBlock {blk : Nat} : Oblivious (decodeBlock p b t m blk) :=
  .bind .getBand fun _ => .bind .getMb fun _ => .bind .mbCtx fun _ => .bind (.raiseIf nofun) fun _ =>
    .bind (.need nofun) fun _ => .bind (.need nofun) fun _ => .bind .updScratch fun _ => .bind (.readLoop .coefTurn) fun _ =>
    .bind (.look rfl) fun _ => .bind (.raiseIf nofun) fun _ => .bind (.ite .updScratch .done) fun _ =>
    .bind (.raiseIf nofun) fun _ => .bind .transformBlock fun _ => .ite .done .predictBlock

theorem fillBlock {blk : Nat} : Oblivious (fillBlock p b t m blk) :=
  .bind .getBand fun bd => .bind .getMb fun _ => .bind .mbCtx fun _ => .bind (.raiseIf nofun) fun _ =>
    .ite (by
      cases bd.dcTransform with
      | none => exact .done
      | some tx => exact .bind (.look rfl) fun _ => .sub checkBlockWrite_ne_none (.update rfl) rfl) .predictBlock

theorem codedOrNot {blk : Nat} : Oblivious (codedOrNot p b t m mb blk) :=
  .sub (fun _ => orBadState_ne_none _) (.ite .decodeBlock .fillBlock) rfl

theorem decodeMb : Oblivious (decodeMb p b t m) :=
  .bind .getBand fun _ => .bind .getMb fun _ => .bind .mbCtx fun _ => .forEach fun _ => .codedOrNot

theorem decodeTileBlocks : Oblivious (decodeTileBlocks p b t) :=
  .bind .updScratch fun _ => .bind .getTile fun _ => .bind (.forEach fun _ => .decodeMb) fun _ => .alignBits

/-! ### Tiles -/

theorem refMb {tl : Tile} : Oblivious (refMb tl m) := by
  unfold Machine.refMb
  cases tl.refTile with
  | none => exact pure
  | some i => exact .bind .getMb fun _ => .pure

theorem emptyMb {tl : Tile} {x y : Nat} : Oblivious (emptyMb p b t bd tl m x y) :=
  .bind .updMb fun _ => .bind (.ite .updMb .done) fun _ => .bind .refMb fun ref? => by
    cases ref? with
    | none => exact .pure
    | some ref =>
      exact .bind (.ite .updMb .done) fun _ => .ite
        (.bind (.look rfl) fun _ => .bind .updMb fun _ => .bind (.raiseIf nofun) fun _ => .pure) .pure

theorem emptyMbs {tl : Tile} {l : List (Nat × Nat × Nat)} {needMc : Bool} :
    Oblivious (emptyMbs p b t bd tl l needMc) := by
  induction l generalizing needMc with
  | nil => exact pure
  | cons _ l ih => exact .bind .emptyMb fun _ => ih

theorem emptyBlock {blk : Nat} : Oblivious (emptyBlock p b bd mb blk) :=
  .bind (.need nofun) fun _ => .bind (.look rfl) fun _ => .predictSingle

theorem emptyPredict : Oblivious (emptyPredict p b t bd m) := .bind .getMb fun _ => .forEach fun _ => .emptyBlock

theorem copyTile {tl : Tile} : Oblivious (copyTile p b bd tl) :=
  .bind (.need nofun) fun _ => .bind (.look rfl) fun _ => .bind (.need nofun) fun _ => .update rfl

theorem emptyTile : Oblivious (emptyTile p b t) :=
  .bind .getBand fun _ => .bind .getTile fun _ => .bind (.raiseIf nofun) fun _ => .bind .emptyMbs fun _ =>
    .ite (.forEach fun _ => .emptyPredict) .copyTile

theorem tileSizeField : Oblivious tileSizeField :=
  .bind .readFlag fun _ => .ite (.bind .readBits fun _ => .ite .readBits .pure) .pure

theorem readTileSize : Oblivious readTileSize := .bind .tileSizeField fun _ => .bind .alignBits fun _ => .pure

/-! ### Macroblock information -/

theorem readMbSigned : Oblivious readMbSigned := .bind (.bind (.look rfl) fun _ => .readVlc) fun _ => .pure

theorem readDeltas {pred : Int × Int} : Oblivious (readDeltas pred) :=
  .bind .readMbSigned fun _ => .bind .readMbSigned fun _ => .pure

theorem readQDelta : Oblivious (readQDelta p b t m) := .bind .readMbSigned fun _ => .updMb

theorem inheritVector {ref : Mb} : Oblivious (inheritVector p b t m bd ref) := .bind (.look rfl) fun _ => .updMb

/-- A write taken over from a macroblock's reference, when it has one. -/
theorem ofRef {ref? : Option Mb} {f : Mb → M Unit} (hf : ∀ ref, Oblivious (f ref)) :
    Oblivious (match ref? with | some ref => f ref | none => Machine.done) := by
  cases ref? with
  | none => exact done
  | some ref => exact hf ref

section macroblock

variable {ref? : Option Mb} {pred : Int × Int}

theorem emptyMbInfo {coded : Bool} : Oblivious (emptyMbInfo p b t m bd coded ref?) :=
  .bind (.look rfl) fun _ => .bind (.raiseIf nofun) fun _ => .bind .updMb fun _ => .bind (.ite .readQDelta .done) fun _ =>
    .bind .updMb fun _ => .ofRef fun _ => .ite .inheritVector .done

theorem mbTypeAndCbp {readType : M (BitVec 2)} (hr : Oblivious readType) : Oblivious (mbTypeAndCbp p b t m bd readType) :=
  .bind hr fun _ => .bind .updMb fun _ => .bind .readBits fun _ => .updMb

theorem checkMbWindow : Oblivious (checkMbWindow p b t m bd) := .bind .getMb fun _ => .raiseIf nofun

theorem mbType4 : Oblivious (mbType4 bd ref?) :=
  .ite (.bind (.need nofun) fun _ => .pure) (.bind (.look rfl) fun _ => .ite .pure (.bind .readBits fun _ => .pure))

theorem mbQDelta4 : Oblivious (mbQDelta4 p b t m bd ref?) :=
  .ite (.ofRef fun _ => .updMb) (.bind .getMb fun _ => .bind (.look rfl) fun _ => .ite .readQDelta .done)

theorem decodeVectors4 {ty : BitVec 2} : Oblivious (decodeVectors4 p b t m ty pred) :=
  .bind .readDeltas fun _ => .bind .updMb fun _ => .ite (.bind .readDeltas fun _ => .bind .updMb fun _ => .pure) .pure

theorem mbVectors4 : Oblivious (mbVectors4 p b t m bd ref? pred) :=
  .bind .getMb fun _ => .ite (.bind .updMb fun _ => .pure) <|
    .bind (.ite (.bind (.ofRef fun _ => .inheritVector) fun _ => .pure) .decodeVectors4) fun _ =>
    .bind (.ite .updMb .done) fun _ => .pure

theorem mbInfo4 {tl : Tile} {x y : Nat} : Oblivious (mbInfo4 p b t bd tl m x y pred) :=
  .bind .refMb fun _ => .bind .updMb fun _ => .bind .readFlag fun _ =>
    .bind (.ite (.bind (.look rfl) fun _ => .bind .emptyMbInfo fun _ => .pure)
      (.bind (.mbTypeAndCbp .mbType4) fun _ => .bind .mbQDelta4 fun _ => .mbVectors4)) fun _ =>
    .bind .checkMbWindow fun _ => .pure

theorem mbType5 : Oblivious (mbType5 bd ref?) := by
  unfold Machine.mbType5
  cases (if bd.inheritMv then ref? else none) with
  | some ref => exact pure
  | none => exact .bind (.look rfl) fun _ => .ite .pure (.bind .readBits fun _ => .pure)

theorem mbQDelta5 : Oblivious (mbQDelta5 p b t m bd ref?) :=
  .ite (.ite (.ofRef fun _ => .updMb) (.bind .getMb fun _ => .bind (.look rfl) fun _ => .ite .readQDelta .done)) .done

theorem mbVector5 : Oblivious (mbVector5 p b t m bd ref? pred) :=
  .bind .getMb fun _ => .ite (.bind .updMb fun _ => .pure) <| by
    cases (if bd.inheritMv then ref? else none) with
    | some ref => exact .bind .inheritVector fun _ => .pure
    | none => exact .bind .readDeltas fun _ => .bind .updMb fun _ => .pure

theorem mbInfo5 {tl : Tile} {x y : Nat} : Oblivious (mbInfo5 p b t bd tl m x y pred) :=
  .bind .refMb fun _ => .bind .updMb fun _ => .bind .readFlag fun _ =>
    .bind (.ite (.bind (.look rfl) fun _ => .bind .emptyMbInfo fun _ => .pure)
      (.bind (.mbTypeAndCbp .mbType5) fun _ => .bind .mbQDelta5 fun _ => .mbVector5)) fun _ =>
    .bind .checkMbWindow fun _ => .pure

end macroblock

theorem mbInfos {one : Nat → Nat → Nat → Int × Int → M (Int × Int)}
    (ho : ∀ m x y pred, Oblivious (one m x y pred)) {l : List (Nat × Nat × Nat)} {pred : Int × Int} :
    Oblivious (mbInfos one l pred) := by
  induction l generalizing pred with
  | nil => exact done
  | cons e l ih => exact .bind (ho _ _ _ _) fun _ => ih

theorem decodeMbInfo : Oblivious (decodeMbInfo p b t) :=
  .bind .getBand fun _ => .bind .getTile fun _ => .bind (.look rfl) fun codec => .bind (.raiseIf nofun) fun _ =>
    .bind (by
      cases codec with
      | indeo4 => exact .mbInfos fun _ _ _ _ => .mbInfo4
      | indeo5 => exact .bind (.raiseIf nofun) fun _ => .mbInfos fun _ _ _ _ => .mbInfo5) fun _ => .alignBits

end Sys2Proof.Machine.Oblivious
end

section
/-! SUPPORT. DECBAND (44_coeff_dequant.md R292): the selection of the band's buffers, its header, and an empty band. -/

namespace Sys2Proof.Machine

open Sys2Proof.Claims

variable {s s' : State} {p b : Nat} {bd hb : Band} {k : Nat} {hdr : Header}

/-! ### The command -/

theorem checkDecband_ok (h : ready s p b bd) : checkDecband p b s = none :=
  orBadState_eq_none.mpr (by simp [State.hasBand, h.1, h.2.1])

theorem exec_decband_ok {p b : BitVec 2} (hp : p ≠ 3) (h : ready s p.toNat b.toNat bd)
    (hbody : decodeBand p.toNat b.toNat s = .ok () s') : exec (.decband p b) s = .next s'.releaseScratch.complete :=
  command_ok (legalPlane_of_ne hp) (checkDecband_ok h) (finally_ok hbody)

theorem finally_error {m : M Unit} {after : State → State} {e : ErrKind} (h : m s = .error e s') :
    finally' m after s = .error e (after s') := by
  rw [finally', h]

theorem finally_eq_ok {m : M Unit} {after : State → State} (h : finally' m after s = .ok () s') :
    ∃ t, m s = .ok () t ∧ s' = after t := by
  cases hm : m s with
  | ok u t => exact ⟨t, rfl, (EStateM.Result.ok.inj (h.symm.trans (finally_ok hm))).2⟩
  | error e t => cases h.symm.trans (finally_error hm)

theorem finally_eq_error {m : M Unit} {after : State → State} {e : ErrKind} (h : finally' m after s = .error e s') :
    ∃ t, m s = .error e t ∧ s' = after t := by
  cases hm : m s with
  | ok u t => cases h.symm.trans (finally_ok hm)
  | error e' t =>
    obtain ⟨rfl, rfl⟩ := EStateM.Result.error.inj (h.symm.trans (finally_error hm))
    exact ⟨t, rfl, rfl⟩

theorem exec_decband_raises {p b : BitVec 2} {e : ErrKind} (hp : p ≠ 3) (h : ready s p.toNat b.toNat bd)
    (hbody : decodeBand p.toNat b.toNat s = .error e s') :
    exec (.decband p b) s = .next (s'.releaseScratch.raised e) :=
  command_raises (legalPlane_of_ne hp) (checkDecband_ok h) (finally_error hbody)

/-- The band's buffers are selected, then its header is read. -/
theorem decodeBand_header (h : ready s p b bd)
    (hcheck : checkBandStream p b (s.updBand p b fun _ => selectBuffers s bd) = none)
    (hheader : bandHeader p b (s.updBand p b fun _ => selectBuffers s bd) = .ok () s') (hband : s'.band? p b = some hb) :
    decodeBand p b s =
      (if hb.isEmpty then emptyBand p b
      else look (fun s => s.br.index) >>= fun pos =>
        withCorrections hb (bandTiles p b (List.range hb.numTiles) pos) >>= fun _ => alignBits) s' := by
  have hselect : s.updBand p b (selectBuffers s) = s.updBand p b fun _ => selectBuffers s bd :=
    State.updBand_congr fun bd' hbd' => by rw [Option.some.inj (hbd'.symm.trans h.1)]
  rw [decodeBand, M.bind_ok (look_apply _ _), h.2.2, Bool.not_true, M.bind_ok (raiseIf_false _ _),
    M.bind_ok (update_apply _ _), hselect, M.bind_ok ((sub_ok hcheck).trans hheader), M.bind_ok (getBand_ok hband)]

/-! ### An empty band -/

/-- An empty band's samples are kept, or zeroed. -/
def emptied (s : State) (p b : Nat) : State :=
  match s.params.emptyBand with
  | .zero => s.setBuffer p b s.rot.dstBuf []
  | _ => s

theorem emptyBand_ok (h : s.params.emptyBand ≠ .error) (hb : s.bound = true) (hin : within s (aligned s.br.index)) :
    emptyBand p b s = .ok () ((emptied s p b).toBit (aligned s.br.index)) := by
  unfold emptyBand emptied
  rw [M.bind_ok (look_apply _ _)]
  cases hpolicy : s.params.emptyBand with
  | keep => exact alignBits_toBit hb hin
  | zero =>
    exact (M.bind_ok (update_apply _ _)).trans (alignBits_toBit (s := s.setBuffer p b s.rot.dstBuf []) hb hin)
  | error => exact absurd hpolicy h

theorem emptyBand_refused (h : s.params.emptyBand = .error) : emptyBand p b s = .error .badHeader s := by
  unfold emptyBand
  rw [M.bind_ok (look_apply _ _), h]
  rfl

end Sys2Proof.Machine
end

section
/-! SUPPORT. DECBAND of an empty INDEO5 band (45_frame_engine.md R353). -/

namespace Sys2Proof.Machine

open Sys2Proof.Claims

variable {s : State} {p b : Nat} {bd : Band}

/-- The band an empty INDEO5 header leaves. -/
def emptiedBand (s : State) (bd : Band) : Band :=
  { bd with buf := some s.rot.dstBuf, refBuf := some s.rot.refBuf, bRefBuf := none, isEmpty := true }

/-- The header of an empty INDEO5 band is its flag byte. -/
theorem decodeBand_empty5 (h : ready s p b bd) (hb : s.bound = true) (hcodec : s.params.codec = .indeo5)
    (hs : streamHas s 8) (hflag : field s 0 8 % 2 = 1) :
    decodeBand p b s = emptyBand p b (s.onBand p b (emptiedBand s bd) s.hdr 8) := by
  have hselect : selectBuffers s bd = { bd with buf := some s.rot.dstBuf, refBuf := some s.rot.refBuf, bRefBuf := none } := by
    simp [selectBuffers, hcodec]
  have hband (bd' : Band) (hdr : Header) (k : Nat) : (s.onBand p b bd' hdr k).band? p b = some bd' :=
    (State.updBand_bandOpt s p b fun _ => bd').trans (by rw [h.1]; rfl)
  have hheader : bandHeader p b (s.onBand p b (selectBuffers s bd) s.hdr 0) =
      .ok () (s.onBand p b (emptiedBand s bd) s.hdr 8) := by
    rw [bandHeader_indeo5 hcodec, hselect]
    exact bandHeader5_empty hb hs hflag
  have hcheck : checkBandStream p b (s.onBand p b (selectBuffers s bd) s.hdr 0) = none :=
    orBadState_eq_none.mpr (Bool.and_eq_true_iff.mpr ⟨by rw [State.hasBand, hband]; rfl, hb⟩)
  exact (decodeBand_header h hcheck hheader (hband _ _ _)).trans rfl

/-- The samples of an empty band that is zeroed. -/
theorem sample_emptied (h : s.params.emptyBand = .zero) (hbuf : s.hasBuffer p b s.rot.dstBuf = true) (p' b' k a : Nat) :
    (emptied s p b).sample p' b' k a = if p' = p ∧ b' = b ∧ k = s.rot.dstBuf.val then 0 else s.sample p' b' k a := by
  simp only [emptied, h, State.sample_setBuffer, hbuf, and_true]
  rfl

theorem emptied_eq (s : State) (p b : Nat) :
    emptied s p b = { s with mem := { s.mem with arena := (emptied s p b).mem.arena } } := by
  unfold emptied
  cases s.params.emptyBand <;> rfl

theorem emptied_keep (h : s.params.emptyBand = .keep) : emptied s p b = s := by
  rw [emptied, h]

/-- DECBAND of an empty INDEO5 band. -/
theorem exec_decband_empty5 {p b : BitVec 2} (hp : p ≠ 3) (h : ready s p.toNat b.toNat bd) (hb : s.bound = true)
    (hcodec : s.params.codec = .indeo5) (hs : streamHas s 8) (hflag : field s 0 8 % 2 = 1)
    (hin : within s (aligned (s.br.index + 8))) :
    let t := s.onBand p.toNat b.toNat (emptiedBand s bd) s.hdr 8
    exec (.decband p b) s = .next (
      if s.params.emptyBand = .error then t.releaseScratch.raised .badHeader
      else ((emptied t p.toNat b.toNat).toBit (aligned (s.br.index + 8))).releaseScratch.complete) := by
  intro t
  have hdecode := decodeBand_empty5 h hb hcodec hs hflag
  by_cases hpolicy : s.params.emptyBand = .error
  · rw [if_pos hpolicy]
    exact exec_decband_raises hp h (hdecode.trans (emptyBand_refused hpolicy))
  · rw [if_neg hpolicy]
    exact exec_decband_ok hp h (hdecode.trans (emptyBand_ok hpolicy hb hin))

end Sys2Proof.Machine
end

section
/-! SUPPORT. DECBAND of a band of one tile (44_coeff_dequant.md R292): what its commands leave one after the other is what
DECBAND leaves, because their bodies are oblivious of what only a command word gives. -/

namespace Sys2Proof.Machine

open Sys2Proof.Claims

/-! ### Commands and their bodies -/

section oblivious

variable {α : Type} {m : M α} {s s' x v : State} {a : α}

theorem Oblivious.over_ok (h : Oblivious m) (hm : m s = .ok a s') (e : ErrKind) (o : Opr) (r : BitVec 64) :
    m (s.over e o r) = .ok a (s'.over e o r) := by
  rcases h s with ⟨a', t, hrun, hover⟩ | ⟨k, t, -, hrun, -⟩
  · cases hm.symm.trans hrun
    exact hover e o r
  · cases hm.symm.trans hrun

theorem Oblivious.error_ne_none (h : Oblivious m) {k : ErrKind} (hm : m s = .error k s') : k ≠ .none := by
  rcases h s with ⟨a', t, hrun, -⟩ | ⟨k', t, hk, hrun, -⟩
  · cases hm.symm.trans hrun
  · cases hm.symm.trans hrun
    exact hk

/-- A command that completes has passed its head check and run its body to the end. -/
theorem command_completed {i : Instr} {check : State → Option ErrKind} {body : M Unit}
    (hkind : ∀ k s', body x = .error k s' → k ≠ .none) (hcheck : check x ≠ some .none)
    (h : command i check body x = .next v) (herr : v.err = .none) :
    check x = none ∧ ∃ s', body x = .ok () s' ∧ v = s'.complete := by
  obtain rfl : runCommand i check body x = v := Host.Outcome.next.inj h
  rcases runCommand_cases i check body x with ⟨-, hrun⟩ | ⟨-, k, hk, hrun⟩ | ⟨-, hnone, s', hbody, hrun⟩ |
    ⟨-, -, k, s', hbody, hrun⟩ <;> rw [hrun] at herr
  · cases (show ErrKind.illegalCommand = .none from herr)
  · have hhead : (x.headError k).err = k := by unfold State.headError; split_ifs <;> rfl
    exact absurd hk (by rw [← hhead, herr]; exact hcheck)
  · exact ⟨hnone, s', hbody, hrun⟩
  · exact absurd herr (hkind k s' hbody)

/-- The body of a command that completes does the same in DECBAND. -/
theorem Oblivious.completed {i : Instr} {check : State → Option ErrKind} {body : M Unit} (hb : Oblivious body)
    (hcheck : check x ≠ some .none) (h : command i check body x = .next v) (herr : v.err = .none) :
    check x = none ∧ ∀ e o r, body (x.over e o r) = .ok () (v.over e o r) := by
  obtain ⟨hnone, s', hbody, rfl⟩ := command_completed (fun _ _ => hb.error_ne_none) hcheck h herr
  have hover := hb.over_ok hbody
  exact ⟨hnone, hover⟩

end oblivious

section kept

variable {s t v : State} {w : Grants} {i : Instr}

theorem Writes.bound (h : Writes w s t) : t.bound = s.bound := h.same State.bound fun _ _ h => by cases h <;> rfl

/-- What a command of the band layer leaves alone. -/
theorem kept_of_exec (h : exec i s = .next v) (hframe : i ≠ .decframe := by nofun) (hreset : i ≠ .reset := by nofun) :
    v.rvmaps = s.rvmaps ∧ v.bound = s.bound ∧ v.opr = s.opr := by
  obtain ⟨t, ht, hw⟩ := exec_writes i s hframe hreset
  obtain rfl : t = v := Host.Outcome.next.inj (ht.symm.trans h)
  exact ⟨hw.rvmaps, hw.bound, hw.opr⟩

end kept

/-! ### The tile's programs -/

section tile

variable {s x y v : State} {p b pos len : Nat} {hb : Band} {tl : Tile}

/-- The state with the band's corrections applied (R290). -/
def State.corrected (s : State) (hb : Band) : State := s.updRvmap hb.rvmapSel fun m => correctAll m hb.corrPairs

/-- The corrections undone (R291). -/
theorem State.undo_corrected (h : v.rvmaps = (s.corrected hb).rvmaps) :
    (v.updRvmap hb.rvmapSel fun m => correctAll m hb.corrPairs.reverse) = { v with rvmaps := s.rvmaps } := by
  simp [State.updRvmap, h, State.corrected, correctAll_reverse]

/-- The flag of a tile is read and kept in its record; it says whether the tile is empty. -/
theorem bandTile_flag (hband : x.band? p b = some hb) (htiles : hb.tiles = [tl]) (hsize : tl.mbSize = hb.mbSize)
    (hbound : x.bound = true) (hs : streamHas x 1) :
    bandTile p b 0 pos x =
      (if decide (field x 0 1 = 1) then sub (checkTile p b 0) (emptyTile p b 0) >>= fun _ => pure pos
      else codedTile p b 0 pos)
        ((x.moved 1).updTile p b 0 fun tl => { tl with isEmpty := decide (field x 0 1 = 1) }) := by
  have htile : x.tile? p b 0 = some tl := by simp [State.tile?, hband, htiles]
  have hmatch : decide (tl.mbSize ≠ hb.mbSize) = false := decide_eq_false (not_not.mpr hsize)
  rw [bandTile, M.bind_ok (getBand_ok hband), M.bind_ok (getTile_ok htile), hmatch, M.bind_ok (raiseIf_false _ _),
    M.bind_ok (readFlag_of_streamHas hbound hs), M.bind_ok (update_apply _ _)]

theorem readBits_lt {n val : Nat} (h : readBits n x = .ok val y) : val < 2 ^ n := by
  rcases readBits_cases n x with ⟨-, -, hrun⟩ | ⟨-, -, hrun⟩ | ⟨-, hrun⟩ <;> cases h.symm.trans hrun
  exact x.peek_lt n

/-- A tile's size is a 24-bit value (R289). -/
theorem readTileSize_lt (h : readTileSize x = .ok len y) : len < 2 ^ 24 := by
  obtain ⟨val, x1, hfield, hrest⟩ := M.bind_eq_ok h
  obtain ⟨-, x2, -, hpure⟩ := M.bind_eq_ok hrest
  cases hpure
  obtain ⟨coded, x3, -, hcoded⟩ := M.bind_eq_ok hfield
  split_ifs at hcoded
  · obtain ⟨short, x4, hshort, hlong⟩ := M.bind_eq_ok hcoded
    split_ifs at hlong
    · exact readBits_lt hlong
    · cases hlong
      exact (readBits_lt hshort).trans (by decide)
  · cases hcoded
    decide

/-- What TILESIZE leaves in `RES` is the size DECBAND takes. -/
theorem tilesize_completed (h : exec .tilesize x = .next v) (herr : v.err = .none) {size : BitVec 24}
    (hres : v.res = size.setWidth 64) : ∀ e o r, readTileSize (x.over e o r) = .ok size.toNat (v.over e o r) := by
  have hkind (k : ErrKind) (s' : State)
      (hbody : (readTileSize >>= fun len => setRes (BitVec.ofNat 64 len)) x = .error k s') : k ≠ .none := by
    rcases M.bind_eq_error hbody with hread | ⟨len, x1, -, hset⟩
    · exact Oblivious.readTileSize.error_ne_none hread
    · cases hset
  have hcheck : needStream x ≠ some .none := by unfold needStream; split_ifs <;> decide
  obtain ⟨-, s', hbody, rfl⟩ := command_completed hkind hcheck h herr
  obtain ⟨len, x1, hread, hset⟩ := M.bind_eq_ok hbody
  cases hset
  have hlen : len = size.toNat := by
    have hlt := readTileSize_lt hread
    have hval : (BitVec.ofNat 64 len).toNat = (size.setWidth 64).toNat := congrArg BitVec.toNat hres
    have hsize := size.isLt
    rw [BitVec.toNat_ofNat, BitVec.toNat_setWidth] at hval
    omega
  subst hlen
  have hover := Oblivious.readTileSize.over_ok hread
  exact hover

/-- A tile that is not empty, once its size is read. -/
theorem codedTile_sized (h : readTileSize x = .ok len y) :
    codedTile p b 0 pos x =
      (raiseIf (decide (len = 0)) .tileSizeMismatch >>= fun _ =>
      sub (checkTile p b 0) (decodeMbInfo p b 0) >>= fun _ => sub (checkTile p b 0) (decodeTileBlocks p b 0) >>= fun _ =>
      look (fun s => s.br.index) >>= fun index =>
      raiseIf (decide ((index - pos) / 8 ≠ len)) .tileSizeMismatch >>= fun _ => pure (pos + 8 * len))
        (y.updTile p b 0 fun tl => { tl with dataSize := BitVec.ofNat 24 len }) := by
  rw [codedTile, M.bind_ok h, M.bind_ok (update_apply _ _)]

theorem oneTile_ok {t : State} {pos' : Nat} (hnum : hb.numTiles = 1)
    (htile : bandTile p b 0 pos (x.corrected hb) = .ok pos' t) (hrv : t.rvmaps = (x.corrected hb).rvmaps)
    (hbound : t.bound = true) (hin : within t (aligned t.br.index)) :
    (withCorrections hb (bandTiles p b (List.range hb.numTiles) pos) >>= fun _ => alignBits) x =
      .ok () ({ t with rvmaps := x.rvmaps }.toBit (aligned t.br.index)) := by
  have htiles : bandTiles p b (List.range hb.numTiles) pos (x.corrected hb) = .ok () t := by
    rw [hnum]
    exact (M.bind_ok htile).trans rfl
  have hcorrected : withCorrections hb (bandTiles p b (List.range hb.numTiles) pos) x =
      .ok () { t with rvmaps := x.rvmaps } := by
    rw [withCorrections_apply, ← State.undo_corrected hrv]
    exact finally_ok htiles
  exact (M.bind_ok hcorrected).trans (alignBits_toBit (s := { t with rvmaps := x.rvmaps }) hbound hin)

theorem oneTile_raises {t : State} {e : ErrKind} (hnum : hb.numTiles = 1)
    (htile : bandTile p b 0 pos (x.corrected hb) = .error e t) (hrv : t.rvmaps = (x.corrected hb).rvmaps) :
    (withCorrections hb (bandTiles p b (List.range hb.numTiles) pos) >>= fun _ => alignBits) x =
      .error e { t with rvmaps := x.rvmaps } := by
  have htiles : bandTiles p b (List.range hb.numTiles) pos (x.corrected hb) = .error e t := by
    rw [hnum]
    exact M.bind_error htile
  refine M.bind_error ?_
  rw [withCorrections_apply, ← State.undo_corrected hrv]
  exact finally_error htiles

/-- What BANDHDR leaves is what DECBAND goes on from. -/
theorem decodeBand_afterHeader {p b : BitVec 2} {bd : Band} {h : State} (hready : ready s p.toNat b.toNat bd)
    (hexec : exec (.bandhdr p b) (s.updBand p.toNat b.toNat fun _ => selectBuffers s bd) = .next h) (herr : h.err = .none)
    (hband : h.band? p.toNat b.toNat = some hb) (hempty : hb.isEmpty = false) :
    decodeBand p.toNat b.toNat s =
      (withCorrections hb (bandTiles p.toNat b.toNat (List.range hb.numTiles) h.br.index) >>= fun _ => alignBits)
        (h.over s.err s.opr s.res) := by
  have hbody := Oblivious.bandHeader.completed (Oblivious.orBadState_ne_none _) hexec herr
  have hheader := hbody.2 s.err s.opr s.res
  refine (decodeBand_header (s' := h.over s.err s.opr s.res) hready hbody.1 hheader hband).trans ?_
  rw [hempty, if_neg Bool.false_ne_true]
  exact M.bind_ok (look_apply _ _)

/-! ### The tile of a band of one -/

/-- Where DECBAND begins its one tile: the corrections are applied, and the tile's flag is read. -/
def State.flagged (h : State) (p b : Nat) (hb : Band) (empty : Bool) : State := State.updTile
  { h with
    rvmaps := h.rvmaps.set hb.rvmapSel (correctAll h.rvmaps[hb.rvmapSel] hb.corrPairs)
    br := atBit h (h.br.index + 1), opr := { h.opr with t := 0 } }
  p b 0 fun tl => { tl with isEmpty := empty }

/-- The tile's size is kept in its record. -/
def State.sized (a : State) (p b : Nat) (r : BitVec 64) (size : BitVec 24) : State :=
  State.updTile { a with res := r } p b 0 fun tl => { tl with dataSize := size }

theorem State.flagged_rvmaps (h : State) (p b : Nat) (hb : Band) (empty : Bool) :
    (h.flagged p b hb empty).rvmaps = (h.corrected hb).rvmaps := State.updTile_rvmaps ..

theorem State.flagged_bound (h : State) (p b : Nat) (hb : Band) (empty : Bool) :
    (h.flagged p b hb empty).bound = h.bound := State.updTile_bound ..

theorem State.sized_rvmaps (a : State) (p b : Nat) (r : BitVec 64) (size : BitVec 24) :
    (a.sized p b r size).rvmaps = a.rvmaps := State.updTile_rvmaps ..

theorem State.sized_bound (a : State) (p b : Nat) (r : BitVec 64) (size : BitVec 24) :
    (a.sized p b r size).bound = a.bound := State.updTile_bound ..

section one

variable {h a m t : State} {p b : BitVec 2} {e : ErrKind} {o : Opr} {r r' : BitVec 64} {size : BitVec 24}

theorem bandTile_start (hband : h.band? p.toNat b.toNat = some hb) (htiles : hb.tiles = [tl])
    (hsize : tl.mbSize = hb.mbSize) (hbound : h.bound = true) (hs : streamHas h 1) {empty : Bool}
    (hempty : decide (field h 0 1 = 1) = empty) :
    bandTile p.toNat b.toNat 0 pos ((h.over e o r).corrected hb) =
      (if empty then sub (checkTile p.toNat b.toNat 0) (emptyTile p.toNat b.toNat 0) >>= fun _ => pure pos
      else codedTile p.toNat b.toNat 0 pos) ((h.flagged p.toNat b.toNat hb empty).over e o r) := by
  subst hempty
  exact bandTile_flag (x := (h.over e o r).corrected hb) hband htiles hsize hbound hs

theorem emptyTile_completed (ht : x.opr.t = 0) (hv : exec (.emptytile p b) x = .next v) (herr : v.err = .none) :
    (sub (checkTile p.toNat b.toNat 0) (emptyTile p.toNat b.toNat 0) >>= fun _ => pure pos) (x.over e o r) =
      .ok pos (v.over e o r) := by
  obtain ⟨hcheck, hbody⟩ := Oblivious.emptyTile.completed (Oblivious.orBadState_ne_none _) hv herr
  rw [ht] at hcheck hbody
  exact M.bind_ok ((sub_ok (s := x.over e o r) hcheck).trans (hbody e o r))

theorem dectileblks_completed (hv : exec (.dectileblks p b) x = .next v) (herr : v.err = .none) :
    checkTile p.toNat b.toNat x.opr.t x = none ∧ ∃ t : State, v = t.releaseScratch.complete ∧
      ∀ e o r, decodeTileBlocks p.toNat b.toNat x.opr.t (x.over e o r) = .ok () (t.over e o r) := by
  have hkind (k : ErrKind) (s' : State)
      (h : finally' (decodeTileBlocks p.toNat b.toNat x.opr.t) State.releaseScratch x = .error k s') : k ≠ .none := by
    obtain ⟨t, hrun, -⟩ := finally_eq_error h
    exact Oblivious.decodeTileBlocks.error_ne_none hrun
  obtain ⟨hcheck, s', hbody, rfl⟩ := command_completed hkind (Oblivious.orBadState_ne_none _) hv herr
  obtain ⟨t, hrun, rfl⟩ := finally_eq_ok hbody
  exact ⟨hcheck, t, rfl, Oblivious.decodeTileBlocks.over_ok hrun⟩

/-- A size of 0 is refused. -/
theorem codedTile_zero (hread : ∀ e o r, readTileSize (x.over e o r) = .ok size.toNat (a.over e o r)) (hsize : size = 0) :
    codedTile p.toNat b.toNat 0 pos (x.over e o r) =
      .error .tileSizeMismatch ((a.sized p.toNat b.toNat r' size).over e o r) := by
  subst hsize
  exact (codedTile_sized (hread e o r)).trans rfl

/-- DECMBINFO and DECTILEBLKS, and then the size is compared with the bytes read. -/
theorem codedTile_completed (hread : ∀ e o r, readTileSize (x.over e o r) = .ok size.toNat (a.over e o r))
    (hsize : size ≠ 0) (ht : a.opr.t = 0) (hm : exec (.decmbinfo p b) (a.sized p.toNat b.toNat r' size) = .next m)
    (herrm : m.err = .none) (hv : exec (.dectileblks p b) m = .next v) (herrv : v.err = .none) :
    ∃ t : State, v = t.releaseScratch.complete ∧ ∀ e o r, codedTile p.toNat b.toNat 0 pos (x.over e o r) =
      (raiseIf (decide ((v.br.index - pos) / 8 ≠ size.toNat)) .tileSizeMismatch >>= fun _ =>
        pure (pos + 8 * size.toNat)) (t.over e o r) := by
  obtain ⟨hcheck, hinfo⟩ := Oblivious.decodeMbInfo.completed (Oblivious.orBadState_ne_none _) hm herrm
  obtain ⟨-, -, hopr⟩ := kept_of_exec hm
  have htm : m.opr.t = 0 := by rw [hopr]; exact ht
  obtain ⟨hcheck', t, rfl, hblocks⟩ := dectileblks_completed hv herrv
  have hta : (a.sized p.toNat b.toNat r' size).opr.t = 0 := ht
  rw [hta] at hcheck hinfo
  rw [htm] at hcheck' hblocks
  refine ⟨t, rfl, fun e o r => ?_⟩
  have hne : size.toNat ≠ 0 := fun h => hsize (BitVec.eq_of_toNat_eq h)
  have hsized : ((a.over e o r).updTile p.toNat b.toNat 0 fun tl => { tl with dataSize := BitVec.ofNat 24 size.toNat }) =
      (a.sized p.toNat b.toNat r' size).over e o r := by
    rw [BitVec.ofNat_toNat, BitVec.setWidth_eq]
    rfl
  rw [codedTile_sized (hread e o r), decide_eq_false hne, M.bind_ok (raiseIf_false _ _), hsized,
    M.bind_ok ((sub_ok (s := (a.sized p.toNat b.toNat r' size).over e o r) hcheck).trans (hinfo e o r)),
    M.bind_ok ((sub_ok (s := m.over e o r) hcheck').trans (hblocks e o r)), M.bind_ok (look_apply _ _)]
  rfl

/-- DECBAND goes on, after its header, with a band of one tile. -/
structure OneTile (p b : BitVec 2) (s h : State) (bd hb : Band) (tl : Tile) : Prop where
  plane : p ≠ 3
  ready : ready s p.toNat b.toNat bd
  bound : h.bound = true
  stream : streamHas h 1
  band : h.band? p.toNat b.toNat = some hb
  count : hb.numTiles = 1
  tiles : hb.tiles = [tl]
  size : tl.mbSize = hb.mbSize
  decode : decodeBand p.toNat b.toNat s =
    (withCorrections hb (bandTiles p.toNat b.toNat (List.range hb.numTiles) h.br.index) >>= fun _ => alignBits)
      (h.over s.err s.opr s.res)

/-- DECBAND leaves `v` with the corrections undone and the error `e`. -/
def EndsWith (p b : BitVec 2) (s h v : State) (e : ErrKind) : Prop := ∃ u, exec (.decband p b) s = .next u ∧ u = { v with
  opr := s.opr, rvmaps := h.rvmaps, err := e, scratch := u.scratch, draws := u.draws
  res := if e = .none then s.res else u.res }

/-- DECBAND leaves `v` with the corrections undone and the cursor aligned. -/
def Closes (p b : BitVec 2) (s h v : State) : Prop := within v (aligned v.br.index) →
  EndsWith p b s h { v with br := atBit v (aligned v.br.index) } .none

/-- The working state, `STATUS.ERR` and the count of draws do not matter. -/
theorem endsWith_released : EndsWith p b s h t.releaseScratch.complete e ↔ EndsWith p b s h t e := by
  simp only [EndsWith, State.releaseScratch, State.complete]

theorem closes_released : Closes p b s h t.releaseScratch.complete ↔ Closes p b s h t := by
  simp only [Closes, EndsWith, atBit, State.releaseScratch, State.complete]

section cases

variable {bd : Band} (ht : OneTile p b s h bd hb tl)

include ht

theorem OneTile.closes {pos' : Nat} (hrv : v.rvmaps = (h.corrected hb).rvmaps) (hbv : v.bound = true)
    (htile : bandTile p.toNat b.toNat 0 h.br.index ((h.over s.err s.opr s.res).corrected hb) =
      .ok pos' (v.over s.err s.opr s.res)) : Closes p b s h v := fun hin =>
  ⟨_, exec_decband_ok ht.plane ht.ready (ht.decode.trans (oneTile_ok ht.count htile hrv hbv hin)), rfl⟩

theorem OneTile.fails (hrv : v.rvmaps = (h.corrected hb).rvmaps)
    (htile : bandTile p.toNat b.toNat 0 h.br.index ((h.over s.err s.opr s.res).corrected hb) =
      .error .tileSizeMismatch (v.over s.err s.opr s.res)) : EndsWith p b s h v .tileSizeMismatch :=
  ⟨_, exec_decband_raises ht.plane ht.ready (ht.decode.trans (oneTile_raises ht.count htile hrv)), rfl⟩

theorem OneTile.start (pos : Nat) {empty : Bool} (hempty : decide (field h 0 1 = 1) = empty) :
    bandTile p.toNat b.toNat 0 pos ((h.over s.err s.opr s.res).corrected hb) =
      (if empty then sub (checkTile p.toNat b.toNat 0) (emptyTile p.toNat b.toNat 0) >>= fun _ => pure pos
      else codedTile p.toNat b.toNat 0 pos) ((h.flagged p.toNat b.toNat hb empty).over s.err s.opr s.res) :=
  bandTile_start ht.band ht.tiles ht.size ht.bound ht.stream hempty

/-- An empty tile. -/
theorem OneTile.empty (hfield : field h 0 1 = 1)
    (hv : completes [.emptytile p b] (h.flagged p.toNat b.toNat hb true) v) : Closes p b s h v := by
  obtain ⟨v, hrun, herrv, rfl⟩ := hv
  obtain ⟨hrv, hbv, -⟩ := kept_of_exec hrun
  exact ht.closes hrv (hbv.trans ht.bound) ((ht.start _ (decide_eq_true hfield)).trans
    (emptyTile_completed rfl hrun herrv))

theorem OneTile.start_coded (pos : Nat) (hfield : field h 0 1 = 0) :
    bandTile p.toNat b.toNat 0 pos ((h.over s.err s.opr s.res).corrected hb) =
      codedTile p.toNat b.toNat 0 pos ((h.flagged p.toNat b.toNat hb false).over s.err s.opr s.res) :=
  (ht.start pos (decide_eq_false (by omega))).trans (by rw [if_neg Bool.false_ne_true])

/-- A tile whose size is 0. -/
theorem OneTile.zero (hfield : field h 0 1 = 0) (ha : completes [.tilesize] (h.flagged p.toNat b.toNat hb false) a)
    (hres : a.res = size.setWidth 64) (hsize : size = 0) :
    EndsWith p b s h (a.sized p.toNat b.toNat r' size) .tileSizeMismatch := by
  obtain ⟨a, hrun, herra, rfl⟩ := ha
  obtain ⟨hrva, -, -⟩ := kept_of_exec hrun
  exact ht.fails hrva ((ht.start_coded _ hfield).trans (codedTile_zero (tilesize_completed hrun herra hres) hsize))

/-- A tile of another size: its macroblocks and its blocks, and the test of the size. -/
theorem OneTile.coded (hfield : field h 0 1 = 0) (ha : completes [.tilesize] (h.flagged p.toNat b.toNat hb false) a)
    (hres : a.res = size.setWidth 64) (hsize : size ≠ 0)
    (hv : completes [.decmbinfo p b, .dectileblks p b] (a.sized p.toNat b.toNat r' size) v) :
    ((v.br.index - h.br.index) / 8 ≠ size.toNat → EndsWith p b s h v .tileSizeMismatch) ∧
      ((v.br.index - h.br.index) / 8 = size.toNat → Closes p b s h v) := by
  obtain ⟨a, hrun, herra, rfl⟩ := ha
  obtain ⟨m, hm, herrm, v, hv, herrv, rfl⟩ := hv
  obtain ⟨hrva, hba, hopra⟩ := kept_of_exec hrun
  obtain ⟨hrvm, hbm, -⟩ := kept_of_exec hm
  obtain ⟨hrvv, hbv, -⟩ := kept_of_exec hv
  obtain ⟨t, rfl, hcoded⟩ := codedTile_completed (pos := h.br.index) (tilesize_completed hrun herra hres) hsize
    (by rw [hopra]; rfl) hm herrm hv herrv
  rw [State.flagged_rvmaps] at hrva
  rw [State.flagged_bound] at hba
  rw [State.sized_rvmaps, hrva] at hrvm
  rw [State.sized_bound, hba, ht.bound] at hbm
  rw [State.complete_rvmaps, State.releaseScratch_rvmaps, hrvm] at hrvv
  rw [State.complete_bound, State.releaseScratch_bound, hbm] at hbv
  have hstart := (ht.start_coded h.br.index hfield).trans (hcoded s.err s.opr s.res)
  refine ⟨fun hsizes => ?_, fun hsizes => ?_⟩
  · rw [decide_eq_true hsizes] at hstart
    exact endsWith_released.mpr (ht.fails hrvv hstart)
  · rw [decide_eq_false (not_not.mpr hsizes)] at hstart
    exact closes_released.mpr (ht.closes hrvv hbv hstart)

end cases

end one

end tile

end Sys2Proof.Machine

namespace Sys2Proof.Proofs.CoeffFamily

open Sys2Proof.Machine Sys2Proof.Claims

/-- Settles O38: an empty band's buffers are selected and its samples kept, zeroed or refused; a band of one tile runs the
bodies of the commands it names one after the other, between its corrections and their undoing. -/
theorem emptyBand : Obligations.EmptyBand := by
  refine ⟨?_, ?_⟩
  · intro p b s bd hp hmem hb hready hcodec hs hflag hin
    have hexec := exec_decband_empty5 hp hready hb hcodec hs hflag hin
    set t := s.onBand p.toNat b.toNat (emptiedBand s bd) s.hdr 8
    refine ⟨_, hexec, ?_, fun hpolicy => ?_, fun hpolicy => ?_, fun hpolicy p' b' k a => ?_, fun hpolicy => ?_⟩
    · split_ifs
      · rfl
      · rw [emptied_eq]
        rfl
    · rw [if_neg hpolicy, emptied_eq]
      rfl
    · rw [if_neg (by rw [hpolicy]; decide), emptied_keep (s := t) hpolicy]
      rfl
    · rw [if_neg (by rw [hpolicy]; decide)]
      exact sample_emptied (s := t) hpolicy hready.2.2 p' b' k a
    · rw [if_pos hpolicy]
      exact ⟨rfl, rfl⟩
  · intro p b s h bd hb tl hp hbound hready selected hexec herr hband hempty hnum htiles hsize hs flagged ends closed
    have hselected : selectBuffers s bd = selected := by
      simp only [selected, selectBuffers]
    rw [← hselected] at hexec
    have hdecode := decodeBand_afterHeader hready hexec herr hband hempty
    obtain ⟨-, hboundh, -⟩ := kept_of_exec hexec
    have ht : OneTile p b s h bd hb tl :=
      ⟨hp, hready, hboundh.trans hbound, hs, hband, hnum, htiles, hsize, hdecode⟩
    exact ⟨fun hfield v hv => ht.empty hfield hv, fun hfield a v size ha hres =>
      ⟨fun hzero => ht.zero hfield ha hres hzero, fun hne hv => ht.coded hfield ha hres hne hv⟩⟩

end Sys2Proof.Proofs.CoeffFamily
end

section
/-! SUPPORT. The geometry of the bands (45_frame_engine.md R312, R314): what an allocation gives, and that no later write of
a band changes its dimensions. -/

namespace Sys2Proof.Machine

open Sys2Proof.Claims

variable {s t : State} {p b : Nat} {bd bd' : Band} {cfg : PicConf}

/-! ### The bands of an allocation -/

theorem le_alignUp (x : Nat) {a : Nat} (ha : 0 < a) : x ≤ alignUp x a := by
  have hdiv := Nat.div_add_mod (x + a - 1) a
  have hmod := Nat.mod_lt (x + a - 1) ha
  rw [alignUp, Nat.mul_comm]
  omega

theorem alignUp_mod (x a : Nat) : alignUp x a % a = 0 := Nat.mul_mod_left ..

theorem planeAlign_pos (p : Nat) : 0 < planeAlign p := by
  unfold planeAlign
  split_ifs <;> decide

theorem bandDim_planeDim_pos {d : Nat} (n : Nat) (hd : 0 < d) : 0 < bandDim (planeDim p d) n := by
  unfold bandDim planeDim
  split_ifs <;> omega

theorem freshBand_geometryOk (params : Params) (scalable : Bool) {width height : Nat} (hw : 0 < width)
    (hh : 0 < height) : (freshBand params scalable p b width height).GeometryOk (planeAlign p) :=
  ⟨hw, le_alignUp _ (planeAlign_pos p), alignUp_mod _ _, hh, le_alignUp _ (planeAlign_pos p), alignUp_mod _ _⟩

theorem State.plane_lt_three (h : s.band? p b = some bd) : p < 3 := by
  by_contra hp
  rw [State.band?, State.plane?, Vector.getElem?_eq_none (Nat.not_lt.mp hp)] at h
  cases h

/-- Every band of an allocation is a fresh one of the dimensions of its plane. -/
theorem State.allocate_band (h : (s.allocate cfg).band? p b = some bd) :
    bd = freshBand s.params s.hdr.isScalable p b (bandDim (planeDim p cfg.picWidth.toNat) (cfg.numBands p))
      (bandDim (planeDim p cfg.picHeight.toNat) (cfg.numBands p)) := by
  rw [State.allocate_bandOpt s cfg (State.plane_lt_three h)] at h
  split_ifs at h
  exact (Option.some.inj h).symm

theorem State.allocate_geometryOk (h : configFits cfg = true) : (s.allocate cfg).GeometryOk := by
  obtain ⟨hw, hh, -⟩ := configFits_iff.mp h
  refine ⟨fun p b bd hbd => ?_, fun b x y hx hy => ?_⟩
  · rw [State.allocate_band hbd]
    exact freshBand_geometryOk _ _ (bandDim_planeDim_pos _ hw) (bandDim_planeDim_pos _ hh)
  · rw [State.allocate_band hx, State.allocate_band hy]
    exact ⟨rfl, rfl, rfl, rfl⟩

/-! ### Writes that keep the dimensions -/

theorem Band.GeometryOk.of_dims {a : Nat} (h : bd.GeometryOk a) (hdims : bd'.dims = bd.dims) : bd'.GeometryOk a := by
  simp only [Band.dims, Prod.mk.injEq] at hdims
  obtain ⟨hw, hh, hp, ha⟩ := hdims
  unfold Band.GeometryOk at *
  rwa [hw, hh, hp, ha]

/-- The same bands exist, with the same dimensions. -/
def SameDims (s t : State) : Prop := ∀ p b, (t.band? p b).map Band.dims = (s.band? p b).map Band.dims

theorem SameDims.band (h : SameDims s t) (hbd : t.band? p b = some bd) :
    ∃ bd', s.band? p b = some bd' ∧ bd.dims = bd'.dims := by
  have hmap := h p b
  rw [hbd] at hmap
  obtain ⟨bd', hbd', hdims⟩ := Option.map_eq_some_iff.mp hmap.symm
  exact ⟨bd', hbd', hdims.symm⟩

/-- The geometry is a matter of the dimensions alone. -/
theorem SameDims.geometryOk (h : SameDims s t) (hs : s.GeometryOk) : t.GeometryOk := by
  obtain ⟨hbands, hchroma⟩ := hs
  refine ⟨fun p b bd hbd => ?_, fun b x y hx hy => ?_⟩
  · obtain ⟨bd', hbd', hdims⟩ := h.band hbd
    exact (hbands p b bd' hbd').of_dims hdims
  · obtain ⟨x', hx', hdx⟩ := h.band hx
    obtain ⟨y', hy', hdy⟩ := h.band hy
    have hagree := hchroma b x' y' hx' hy'
    simp only [Band.dims, Prod.mk.injEq] at hdx hdy
    omega

theorem sameDims_updBand (f : Band → Band) (hf : ∀ bd, s.band? p b = some bd → (f bd).dims = bd.dims) :
    SameDims s (s.updBand p b f) := fun p' b' => by
  rw [State.updBand_bandOpt_all, Option.map_map]
  refine Option.map_congr fun bd hbd => ?_
  rw [Function.comp_apply]
  split_ifs with hpb
  · obtain ⟨rfl, rfl⟩ := hpb
    exact hf bd hbd
  · rfl

/-- The chroma planes agree, so that a band of plane 2 that takes over its width and height keeps them (R352). -/
theorem sameDims_copyGop (hs : s.GeometryOk) (hsrc : s.band? 1 b = some bd) :
    SameDims s (s.updBand 2 b (copyGopFields bd)) :=
  sameDims_updBand _ fun y hy => by
    obtain ⟨hw, hh, -, -⟩ := hs.2 b bd y hsrc hy
    simp only [Band.dims, copyGopFields, hw, hh]

theorem sameDims_setDefaultSizes (s : State) : SameDims s s.setDefaultSizes := fun p b => by
  simp only [State.band?, State.plane?, State.setDefaultSizes, Vector.getElem?_mapIdx]
  cases s.planes[p]? with
  | none => rfl
  | some pl =>
    simp only [Option.map_some, List.getElem?_map, Option.map_map]
    rfl

/-! ### Writes and commands -/

theorem State.geometryOk_of_bandOpt (h : ∀ p b, s.band? p b = none) : s.GeometryOk :=
  ⟨fun p b bd hbd => by (rw [h] at hbd; cases hbd), fun b x y hx _ => by rw [h] at hx; cases hx⟩

theorem Writes.geometryOk {w : Grants} (h : Writes w s t) (hs : s.GeometryOk) : t.GeometryOk :=
  h.keeps State.GeometryOk (fun s _ h hs => by
    cases h with
    | band p b f hf => exact (sameDims_updBand f fun bd _ => hf bd).geometryOk hs
    | chroma b src hsrc => exact (sameDims_copyGop hs hsrc).geometryOk hs
    | defaultSizes => exact (sameDims_setDefaultSizes s).geometryOk hs
    | allocate cfg _ hfit => exact State.allocate_geometryOk hfit
    | deallocate => exact State.geometryOk_of_bandOpt s.deallocate_bandOpt
    | _ => exact hs) hs

theorem Runs.geometryOk {i : Instr} (h : Runs i s t) (hs : s.GeometryOk) : t.GeometryOk := by
  cases h with
  | writes _ _ h => exact h.geometryOk hs
  | bound => exact hs
  | frame h _ | aborted h _ => exact h.geometryOk (s := s.bind _ _) hs
  | reset => exact State.geometryOk_of_bandOpt (resetWith_bandOpt s.params)

end Sys2Proof.Machine

namespace Sys2Proof.Proofs.FrameFamily

open Sys2Proof.Machine Sys2Proof.Claims

/-- Settles O60: an allocation that fits makes the geometry, and every other write keeps the dimensions of the bands. -/
theorem stepKeepsGeometry : Obligations.StepKeepsGeometry := fun _ _ hs h =>
  step_keeps State.GeometryOk (fun _ _ _ h => h) (fun _ h => h) (fun _ _ _ hr => hr.geometryOk) hs h

/-- Settles O40: the bands of a plane of an allocation are fresh ones of one width and height. -/
theorem planesGeometry : Obligations.PlanesGeometry := by
  intro s hfit
  refine ⟨_, exec_initplanes_ok hfit, rfl, fun p b bd hbd => ?_⟩
  rw [State.complete_bandOpt] at hbd
  refine ⟨?_, fun b' bd' hbd' => ?_, fun hp hluma => ?_⟩
  · obtain ⟨-, hw, hpitch, -, hh, haheight⟩ := (s.allocate_geometryOk hfit).1 p b bd hbd
    exact ⟨hw, hh, hpitch, haheight, rfl⟩
  · rw [State.allocate_band hbd, State.allocate_band hbd']
    exact ⟨rfl, rfl, rfl, rfl⟩
  · subst hp
    have hhalf (d : Nat) : d ≤ 2 * ((d + 1) / 2) := by omega
    have hfour : s.opr.cfg.numBands 0 = 4 := congrArg BitVec.toNat hluma
    refine ⟨_, rfl, ?_⟩
    rw [State.allocate_band hbd, hfour]
    exact ⟨hhalf _, hhalf _⟩

end Sys2Proof.Proofs.FrameFamily
end

section
/-! SUPPORT. The output planes (45_frame_engine.md R380 to R383): stores that make an image, and what OUTPLANE and the
recompositions store. -/

namespace Sys2Proof.Machine

open Sys2Proof.Claims

variable {s : State} {w h pitch x y : Nat} {f : Nat → Nat → Byte} {l : List (Nat × Byte)} {cells : List Host.Cell}

/-! ### Images -/

/-- The list stores the bytes `f x y` of an area at its places in an output plane, and nothing else. -/
def IsImage (w h pitch : Nat) (f : Nat → Nat → Byte) (l : List (Nat × Byte)) : Prop :=
  ∀ a v, (a, v) ∈ l ↔ ∃ x y, x < w ∧ y < h ∧ a = y * pitch + x ∧ v = f x y

/-- Rows that do not overlap keep the places of an area apart. -/
theorem place_inj {x' y' : Nat} (hx : x < pitch) (hx' : x' < pitch) (h : y * pitch + x = y' * pitch + x') :
    x = x' ∧ y = y' := by
  have hcol : x = x' := by
    have hmod := congrArg (· % pitch) h
    simpa [Nat.mul_add_mod', Nat.mod_eq_of_lt hx, Nat.mod_eq_of_lt hx'] using hmod
  subst hcol
  exact ⟨rfl, Nat.eq_of_mul_eq_mul_right (by omega) (Nat.add_right_cancel h)⟩

/-- A written byte reads back where every write to its address writes that byte. -/
theorem lookup_storeBytes_agree {a : Nat} {v : Byte} (hmem : (a, v) ∈ l) (hall : ∀ v', (a, v') ∈ l → v' = v) :
    cellsLookup (storeBytes cells l) a = some v := by
  induction l generalizing cells with
  | nil => cases hmem
  | cons e l ih =>
    by_cases hlater : ∃ v', (a, v') ∈ l
    · obtain ⟨v', hv'⟩ := hlater
      obtain rfl := hall v' (List.mem_cons_of_mem _ hv')
      exact ih hv' fun v'' h => hall v'' (List.mem_cons_of_mem _ h)
    · have hhead : e = (a, v) := by
        rcases List.mem_cons.mp hmem with h | h
        · exact h.symm
        · exact absurd ⟨v, h⟩ hlater
      subst hhead
      rw [storeBytes, lookup_storeBytes_other, cellsLookup_insert, if_pos rfl]
      rintro e he rfl
      exact hlater ⟨e.2, he⟩

theorem IsImage.lookup (himg : IsImage w h pitch f l) (hpitch : w ≤ pitch) (hx : x < w) (hy : y < h) :
    cellsLookup (storeBytes cells l) (y * pitch + x) = some (f x y) := by
  refine lookup_storeBytes_agree ((himg _ _).mpr ⟨x, y, hx, hy, rfl, rfl⟩) fun v hv => ?_
  obtain ⟨x', y', hx', -, haddr, rfl⟩ := (himg _ _).mp hv
  obtain ⟨rfl, rfl⟩ := place_inj (hx.trans_le hpitch) (hx'.trans_le hpitch) haddr
  rfl

theorem IsImage.lookup_outside (himg : IsImage w h pitch f l) {a : Nat}
    (ha : ¬∃ x y, x < w ∧ y < h ∧ a = y * pitch + x) : cellsLookup (storeBytes cells l) a = cellsLookup cells a := by
  refine lookup_storeBytes_other fun e he haddr => ha ?_
  obtain ⟨x, y, hx, hy, hplace, -⟩ := (himg e.1 e.2).mp he
  exact ⟨x, y, hx, hy, haddr ▸ hplace⟩

/-- The state after an image is stored in plane `t`. -/
theorem IsImage.outByte (himg : IsImage w h pitch f l) (hpitch : w ≤ pitch) (t : Fin 3) (hx : x < w) (hy : y < h) :
    (s.setOut t (storeBytes (s.outPlane t) l)).outByte t (y * pitch + x) = some (f x y) := by
  rw [State.outByte_setOut, if_pos rfl, himg.lookup hpitch hx hy]

theorem IsImage.outByte_outside (himg : IsImage w h pitch f l) (t q : Fin 3) (a : Nat)
    (ha : ¬(q = t ∧ ∃ x y, x < w ∧ y < h ∧ a = y * pitch + x)) :
    (s.setOut t (storeBytes (s.outPlane t) l)).outByte q a = s.outByte q a := by
  rw [State.outByte_setOut]
  split_ifs with hq
  · subst hq
    exact himg.lookup_outside fun hplace => ha ⟨rfl, hplace⟩
  · rfl

theorem mem_pixels {e : Nat × Nat} : e ∈ pixels w h ↔ e.1 < w ∧ e.2 < h := by
  obtain ⟨x, y⟩ := e
  simp only [pixels, List.mem_flatMap, List.mem_map, List.mem_range, Prod.mk.injEq]
  exact ⟨fun ⟨_, hy, _, hx, rfl, rfl⟩ => ⟨hx, hy⟩, fun ⟨hx, hy⟩ => ⟨y, hy, x, hx, rfl, rfl⟩⟩

theorem isImage_pixels (w h pitch : Nat) (f : Nat → Nat → Byte) :
    IsImage w h pitch f ((pixels w h).map fun e => (e.2 * pitch + e.1, f e.1 e.2)) := fun a v => by
  simp only [List.mem_map, mem_pixels, Prod.mk.injEq, Prod.exists]
  exact ⟨fun ⟨x, y, ⟨hx, hy⟩, ha, hv⟩ => ⟨x, y, hx, hy, ha.symm, hv.symm⟩,
    fun ⟨x, y, hx, hy, ha, hv⟩ => ⟨x, y, ⟨hx, hy⟩, ha.symm, hv.symm⟩⟩

/-! ### OUTPLANE (R380) -/

/-- A sample that lies in its buffer is no draw. -/
theorem State.outSample_eq {p b k a : Nat} {bd : Band} (hband : s.band? p b = some bd) (hbuf : s.hasBuffer p b k = true)
    (ha : a < bd.pitch * bd.aheight) : s.outSample p b k a = (s.sample p b k a).toInt := by
  rw [State.outSample, State.bandSize_eq hband, if_pos ⟨ha, hbuf⟩]

theorem exec_outplane {p : BitVec 2} {bd : Band} (hp : p ≠ 3) (hband : s.band? p.toNat 0 = some bd) :
    exec (.outplane p 0) s = .next (s.outputPlane p.toNat).complete := by
  have hwf : (Instr.outplane p 0).wellFormed = true := by
    simpa [Instr.wellFormed] using legalPlane_of_ne hp
  have hcheck : checkBand p.toNat 0 s = none := orBadState_eq_none.mpr (by rw [State.hasBand, hband]; rfl)
  exact command_ok hwf hcheck (update_apply _ _)

theorem outTarget_toNat {p : BitVec 2} : outTarget p.toNat = if p = 0 then 0 else if p = 1 then 2 else 1 := by
  revert p
  decide

theorem State.outputPlane_none {p : Nat} {pl : Plane} {bd : Band} (hplane : s.plane? p = some pl)
    (hband : s.band? p 0 = some bd) (hbuf : bd.buf = none) : s.outputPlane p = s := by
  simp [State.outputPlane, hplane, hband, hbuf]

theorem State.outputPlane_some {p : Nat} {pl : Plane} {bd : Band} {k : Fin 4} (hplane : s.plane? p = some pl)
    (hband : s.band? p 0 = some bd) (hbuf : bd.buf = some k) :
    s.outputPlane p =
      { s.setOut (outTarget p) (storeBytes (s.outPlane (outTarget p)) (s.planeStores p pl bd k)) with
        draws := s.draws + s.outDraws p [0] ((pl.height.toNat - 1) * bd.pitch + pl.width.toNat) } := by
  simp [State.outputPlane, hplane, hband, hbuf]

theorem isImage_planeStores (s : State) (p : Nat) (pl : Plane) (bd : Band) (k : Nat) :
    IsImage pl.width.toNat pl.height.toNat (s.outPitchOf (outTarget p) pl.width.toNat)
      (fun x y => outPixel (s.outSample p 0 k (y * bd.pitch + x))) (s.planeStores p pl bd k) := isImage_pixels _ _ _ _

/-! ### Recomposition (R381, R382) -/

/-- The value that four pixels of a position of the band domain give the pixel `(x, y)` among them. -/
def quadAt (q : Int × Int × Int × Int) (x y : Nat) : Int :=
  if y % 2 = 0 then if x % 2 = 0 then q.1 else q.2.1 else if x % 2 = 0 then q.2.2.1 else q.2.2.2

theorem mem_put {v : Int} {e : Nat × Byte} :
    e ∈ put w h pitch x y v ↔ x < w ∧ y < h ∧ e.1 = y * pitch + x ∧ e.2 = outPixel v := by
  obtain ⟨a, b⟩ := e
  unfold put
  split_ifs with hin
  · simp [hin]
  · simp only [List.not_mem_nil, false_iff]
    tauto

/-- The four stores of a position are of its four pixels, those outside the picture left out. -/
theorem mem_putQuad {i j : Nat} {q : Int × Int × Int × Int} {e : Nat × Byte} :
    e ∈ putQuad w h pitch i j q ↔
      ∃ x y, x < w ∧ y < h ∧ x / 2 = i ∧ y / 2 = j ∧ e.1 = y * pitch + x ∧ e.2 = outPixel (quadAt q x y) := by
  simp only [putQuad, List.mem_append, mem_put]
  constructor
  · rintro (((⟨hx, hy, ha, hv⟩ | ⟨hx, hy, ha, hv⟩) | ⟨hx, hy, ha, hv⟩) | ⟨hx, hy, ha, hv⟩)
    · exact ⟨2 * i, 2 * j, hx, hy, by omega, by omega, ha, by simpa [quadAt] using hv⟩
    · exact ⟨2 * i + 1, 2 * j, hx, hy, by omega, by omega, ha, by simpa [quadAt, Nat.add_mod] using hv⟩
    · exact ⟨2 * i, 2 * j + 1, hx, hy, by omega, by omega, ha, by simpa [quadAt, Nat.add_mod] using hv⟩
    · exact ⟨2 * i + 1, 2 * j + 1, hx, hy, by omega, by omega, ha, by simpa [quadAt, Nat.add_mod] using hv⟩
  · rintro ⟨x, y, hx, hy, rfl, rfl, ha, hv⟩
    have hcol : 2 * (x / 2) = x ∧ x % 2 = 0 ∨ 2 * (x / 2) + 1 = x ∧ x % 2 ≠ 0 := by omega
    have hrow : 2 * (y / 2) = y ∧ y % 2 = 0 ∨ 2 * (y / 2) + 1 = y ∧ y % 2 ≠ 0 := by omega
    rcases hcol with ⟨hcol, hxe⟩ | ⟨hcol, hxe⟩ <;> rcases hrow with ⟨hrow, hye⟩ | ⟨hrow, hye⟩ <;>
      simp only [quadAt, hxe, hye, if_true, if_false] at hv <;> rw [hcol, hrow] <;> tauto

theorem isImage_quads (w h pitch : Nat) (q : Nat → Nat → Int × Int × Int × Int) :
    IsImage w h pitch (fun x y => outPixel (quadAt (q (x / 2) (y / 2)) x y))
      ((pixels ((w + 1) / 2) ((h + 1) / 2)).flatMap fun e => putQuad w h pitch e.1 e.2 (q e.1 e.2)) := fun a v => by
  simp only [List.mem_flatMap, mem_pixels, mem_putQuad]
  constructor
  · rintro ⟨e, -, x, y, hx, hy, hi, hj, ha, hv⟩
    exact ⟨x, y, hx, hy, ha, by rw [hi, hj]; exact hv⟩
  · rintro ⟨x, y, hx, hy, ha, hv⟩
    exact ⟨(x / 2, y / 2), ⟨by show x / 2 < _; omega, by show y / 2 < _; omega⟩, x, y, hx, hy, rfl, rfl, ha, hv⟩

theorem quadAt_haar (b0 b1 b2 b3 : Int) (x y : Nat) :
    let sx : Int := if x % 2 = 0 then 1 else -1
    let sy : Int := if y % 2 = 0 then 1 else -1
    quadAt (haarQuad b0 b1 b2 b3) x y = (b0 + sy * b1 + sx * b2 + sx * sy * b3 + 2) / 4 := by
  intro sx sy
  simp only [quadAt, haarQuad, asr, sx, sy]
  split_ifs <;> congr 1 <;> ring

/-- The 5/3 value of the pixel `(x, y)`, not yet scaled, from the samples `b k i j` (R382): lines down the columns of lines
along the rows. -/
def value53 (w h : Nat) (b : Nat → Nat → Nat → Int) (x y : Nat) : Int :=
  let i := x / 2
  let j := y / 2
  let l := i - 1
  let r := if 2 * i + 2 < w then i + 1 else i
  let u := j - 1
  let d := if 2 * j + 2 < h then j + 1 else j
  let row := fun (lo hi : Nat) (v : Nat) =>
    if x % 2 = 0 then lineEven (b lo i v) (b hi l v) (b hi i v)
    else lineOdd (b lo i v) (b lo r v) (b hi l v) (b hi i v) (b hi r v)
  if y % 2 = 0 then lineEven (row 0 2 j) (row 1 3 u) (row 1 3 j)
  else lineOdd (row 0 2 j) (row 0 2 d) (row 1 3 u) (row 1 3 j) (row 1 3 d)

theorem quadAt_quad53 (w h : Nat) (b : Nat → Nat → Nat → Int) (x y : Nat) :
    quadAt (quad53 w h b (x / 2) (y / 2)) x y = value53 w h b x y / 64 := by
  simp only [quadAt, quad53, value53, asr, lineEven, lineOdd]
  generalize (if 2 * (x / 2) + 2 < w then x / 2 + 1 else x / 2) = r
  generalize (if 2 * (y / 2) + 2 < h then y / 2 + 1 else y / 2) = d
  split_ifs <;> congr 1 <;> ring

/-- The filter reads its samples in the band domain alone. -/
theorem value53_congr {b b' : Nat → Nat → Nat → Int} (hx : x < w) (hy : y < h)
    (heq : ∀ k i j, k < 4 → i < (w + 1) / 2 → j < (h + 1) / 2 → b k i j = b' k i j) :
    value53 w h b x y = value53 w h b' x y := by
  have hi : x / 2 < (w + 1) / 2 := by omega
  have hj : y / 2 < (h + 1) / 2 := by omega
  have hl : x / 2 - 1 < (w + 1) / 2 := by omega
  have hu : y / 2 - 1 < (h + 1) / 2 := by omega
  have hr : (if 2 * (x / 2) + 2 < w then x / 2 + 1 else x / 2) < (w + 1) / 2 := by split_ifs <;> omega
  have hd : (if 2 * (y / 2) + 2 < h then y / 2 + 1 else y / 2) < (h + 1) / 2 := by split_ifs <;> omega
  simp only [value53, heq _ _ _ (show 0 < 4 by decide), heq _ _ _ (show 1 < 4 by decide),
    heq _ _ _ (show 2 < 4 by decide), heq _ _ _ (show 3 < 4 by decide), hi, hj, hl, hu, hr, hd]

/-! ### The recomposition commands -/

section recompose

variable {ks : Fin 4 → Fin 4} {bd : Fin 4 → Band}

theorem State.lumaBufs_some (hbands : s.planes[0].bands = [bd 0, bd 1, bd 2, bd 3])
    (hbuf : ∀ k, (bd k).buf = some (ks k)) : s.lumaBufs = some (ks 0, ks 1, ks 2, ks 3) := by
  simp only [State.lumaBufs, hbands, hbuf]

theorem State.lumaBand (hbands : s.planes[0].bands = [bd 0, bd 1, bd 2, bd 3]) (k : Fin 4) :
    s.band? 0 k = some (bd k) := by
  show s.planes[0].bands[k.val]? = some (bd k)
  rw [hbands]
  fin_cases k <;> rfl

/-- In the band domain a sample that a recomposition reads is no draw. -/
theorem State.lumaSample_eq (hbands : s.planes[0].bands = [bd 0, bd 1, bd 2, bd 3])
    (hexists : ∀ k : Fin 4, s.hasBuffer 0 k (ks k) = true) {i j : Nat} (k : Fin 4)
    (hin : j * (bd 0).pitch + i < (bd k).pitch * (bd k).aheight) :
    s.lumaSample (ks 0, ks 1, ks 2, ks 3) (bd 0).pitch k i j =
      (s.sample 0 k (ks k) (j * (bd 0).pitch + i)).toInt := by
  rw [← State.outSample_eq (State.lumaBand hbands k) (hexists k) hin]
  fin_cases k <;> rfl

theorem State.recompose_eq (hbands : s.planes[0].bands = [bd 0, bd 1, bd 2, bd 3])
    (hbuf : ∀ k, (bd k).buf = some (ks k))
    (quad : Nat → Nat → (Nat → Nat → Nat → Int) → Nat → Nat → Int × Int × Int × Int) :
    let w := s.planes[0].width.toNat
    let h := s.planes[0].height.toNat
    let q := quad w h (s.lumaSample (ks 0, ks 1, ks 2, ks 3) (bd 0).pitch)
    let op := s.outPitchOf 0 w
    s.recompose quad =
      { s.setOut 0 (storeBytes (s.outPlane 0)
          ((pixels ((w + 1) / 2) ((h + 1) / 2)).flatMap fun e => putQuad w h op e.1 e.2 (q e.1 e.2))) with
        draws := s.draws + s.outDraws 0 [0, 1, 2, 3] (((h + 1) / 2 - 1) * (bd 0).pitch + (w + 1) / 2) } := by
  have hpitch : s.bandPitch 0 0 = (bd 0).pitch := State.bandPitch_eq (State.lumaBand hbands 0)
  simp only [State.recompose, State.lumaBufs_some hbands hbuf, hpitch]

theorem exec_recomphaar (h : s.lumaBufs.isSome = true) : exec .recomphaar s = .next s.recompHaar.complete :=
  command_ok rfl (orBadState_eq_none.mpr h) (update_apply _ _)

theorem exec_recomp53 (h : s.lumaBufs.isSome = true) : exec .recomp53 s = .next s.recomp53.complete :=
  command_ok rfl (orBadState_eq_none.mpr h) (update_apply _ _)

end recompose

end Sys2Proof.Machine

namespace Sys2Proof.Proofs.FrameFamily

open Sys2Proof.Machine Sys2Proof.Claims

/-- Settles O51: OUTPLANE's stores are the image of its plane. -/
theorem outPlanePixels : Obligations.OutPlanePixels := by
  intro p s pl bd hp hplane hband target op w h
  have hexec := exec_outplane hp hband
  refine ⟨fun hnone => ?_, fun k hk hbuf hin => ?_⟩
  · rw [hexec, State.outputPlane_none hplane hband hnone]
    rfl
  · have himage := isImage_planeStores s p.toNat pl bd k
    rw [State.outputPlane_some hplane hband hk] at hexec
    rw [outTarget_toNat] at hexec himage
    refine ⟨_, hexec, fun x y hx hy => ?_, fun q a ha => ?_, rfl⟩
    · rw [← State.outSample_eq hband hbuf (hin x y hx hy)]
      exact himage.outByte (le_max_right _ _) target hx hy
    · exact himage.outByte_outside target q a ha

/-- Settles O52: the stores of a recomposition are an image of its filter's values, and within the band domain the filter
reads the samples of the four bands. -/
theorem recompPixels : Obligations.RecompPixels := by
  intro s ks bd hbands hbuf hexists w h hin b op only
  have hsome : s.lumaBufs.isSome = true := by rw [State.lumaBufs_some hbands hbuf]; rfl
  have hsample (k i j : Nat) (hk : k < 4) (hi : i < (w + 1) / 2) (hj : j < (h + 1) / 2) :
      s.lumaSample (ks 0, ks 1, ks 2, ks 3) (bd 0).pitch k i j = b (Fin.ofNat 4 k) i j := by
    have hfin : Fin.ofNat 4 k = ⟨k, hk⟩ := Fin.ext (Nat.mod_eq_of_lt hk)
    rw [hfin]
    exact State.lumaSample_eq hbands hexists ⟨k, hk⟩ (hin ⟨k, hk⟩ i j hi hj)
  have himage (quad : Nat → Nat → (Nat → Nat → Nat → Int) → Nat → Nat → Int × Int × Int × Int) :=
    isImage_quads w h op (quad w h (s.lumaSample (ks 0, ks 1, ks 2, ks 3) (bd 0).pitch))
  have hop : w ≤ op := le_max_right _ _
  refine ⟨⟨_, exec_recomphaar hsome, ?_, fun x y hx hy => ?_⟩, ⟨_, exec_recomp53 hsome, ?_, fun hstd x y hx hy => ?_⟩⟩
  · rw [State.recompHaar, State.recompose_eq hbands hbuf]
    exact ⟨fun q a ha => (himage haarFilter).outByte_outside 0 q a ha, rfl⟩
  · intro c sx sy
    have hi : x / 2 < (w + 1) / 2 := by omega
    have hj : y / 2 < (h + 1) / 2 := by omega
    rw [State.recompHaar, State.recompose_eq hbands hbuf]
    refine ((himage haarFilter).outByte hop 0 hx hy).trans (congrArg (fun v => some (pixel v)) ?_)
    refine (quadAt_haar _ _ _ _ x y).trans ?_
    rw [hsample 0 _ _ (by decide) hi hj, hsample 1 _ _ (by decide) hi hj, hsample 2 _ _ (by decide) hi hj,
      hsample 3 _ _ (by decide) hi hj]
    rfl
  · rw [State.recomp53, State.recompose_eq hbands hbuf]
    exact ⟨fun q a ha => (himage (filter53 s.params.recomp53)).outByte_outside 0 q a ha, rfl⟩
  · rw [State.recomp53, State.recompose_eq hbands hbuf]
    refine ((himage (filter53 s.params.recomp53)).outByte hop 0 hx hy).trans (congrArg (fun v => some (pixel v)) ?_)
    rw [hstd]
    refine (quadAt_quad53 w h _ x y).trans (congrArg (· / 64) ?_)
    exact value53_congr (b' := fun k => b (Fin.ofNat 4 k)) hx hy hsample

end Sys2Proof.Proofs.FrameFamily
end

section
/-! SUPPORT. The tiles of a band (45_frame_engine.md R317, R318): how they lie on one axis, and that they partition it. -/

namespace Sys2Proof.Machine

open Sys2Proof.Claims

variable {a t i j x n : Nat}

/-! ### One axis -/

theorem lt_ceilDiv_iff (ht : 0 < t) : i < ceilDiv a t ↔ i * t < a := by
  rw [ceilDiv, ← Nat.succ_le_iff, Nat.le_div_iff_mul_le ht, Nat.succ_mul]
  omega

/-- A length that is not above the tile's is one tile. -/
theorem ceilDiv_eq_one (ha : 0 < a) (hle : a ≤ t) : ceilDiv a t = 1 :=
  Nat.div_eq_of_lt_le (by omega) (by omega)

/-- A place of the axis lies in one piece of it. -/
theorem covers_iff (ht : 0 < t) (hx : x < a) :
    (i * t ≤ x ∧ x < i * t + min (a - i * t) t) ↔ x / t = i := by
  rw [Nat.div_eq_iff ht]
  omega

/-- The first `n` pieces reach as far as they can. -/
theorem sum_pieces (a t n : Nat) : ((List.range n).map fun i => min (a - i * t) t).sum = min a (n * t) := by
  induction n with
  | zero => simp
  | succ n ih =>
    rw [List.range_succ, List.map_append, List.sum_append, ih, Nat.succ_mul]
    simp only [List.map_cons, List.map_nil, List.sum_cons, List.sum_nil]
    omega

theorem sum_axis (ht : 0 < t) : ((List.range (ceilDiv a t)).map fun i => min (a - i * t) t).sum = a := by
  rw [sum_pieces]
  exact min_eq_left (Nat.not_lt.mp fun h => Nat.lt_irrefl _ ((lt_ceilDiv_iff ht).mpr h))

/-! ### The tiles -/

variable {bd : Band} {tw th d : Nat}

/-- The tile in column `i` and row `j`. -/
def gridTile (bd : Band) (tw th d i j : Nat) : Tile := freshTile bd tw th (i * tw) (j * th) d

/-- The tiles counted through. -/
theorem freshTiles_eq (bd : Band) (tw th d : Nat) :
    ((tilePositions bd tw th).map fun e => freshTile bd tw th e.1 e.2 d) =
      (List.range (ceilDiv bd.width tw * ceilDiv bd.height th)).map fun m =>
        gridTile bd tw th d (m % ceilDiv bd.width tw) (m / ceilDiv bd.width tw) := by
  rw [tilePositions, flatMap_rows fun i j => (i * tw, j * th), List.map_map]
  rfl

theorem gridTile_covers_iff (htw : 0 < tw) (hth : 0 < th) {x y : Nat} (hx : x < bd.width) (hy : y < bd.height) :
    let tl := gridTile bd tw th d i j
    (tl.xpos ≤ x ∧ x < tl.xpos + tl.width ∧ tl.ypos ≤ y ∧ y < tl.ypos + tl.height) ↔ x / tw = i ∧ y / th = j := by
  rw [← covers_iff htw hx, ← covers_iff hth hy, and_assoc]
  rfl

theorem gridTile_bounds (htw : 0 < tw) (hth : 0 < th) (hi : i < ceilDiv bd.width tw) (hj : j < ceilDiv bd.height th) :
    let tl := gridTile bd tw th d i j
    tl.xpos + tl.width ≤ bd.width ∧ tl.ypos + tl.height ≤ bd.height ∧
      1 ≤ tl.width ∧ tl.width ≤ tw ∧ 1 ≤ tl.height ∧ tl.height ≤ th := by
  rw [lt_ceilDiv_iff htw] at hi
  rw [lt_ceilDiv_iff hth] at hj
  simp only [gridTile, freshTile]
  omega

/-- The areas of a row add up, and so do the rows. -/
theorem sum_areas (htw : 0 < tw) (hth : 0 < th) :
    (((tilePositions bd tw th).map fun e => freshTile bd tw th e.1 e.2 d).map fun tl => tl.width * tl.height).sum =
      bd.width * bd.height := by
  have hrow (j : Nat) : ((List.range (ceilDiv bd.width tw)).map fun i =>
      min (bd.width - i * tw) tw * min (bd.height - j * th) th).sum = bd.width * min (bd.height - j * th) th := by
    rw [List.sum_map_mul_right, sum_axis htw]
  have hrows : ((List.range (ceilDiv bd.height th)).map fun j => bd.width * min (bd.height - j * th) th).sum =
      bd.width * bd.height := by
    rw [List.sum_map_mul_left, sum_axis hth]
  rw [← hrows, tilePositions]
  rw [List.map_map, List.map_flatMap, List.flatMap_def, List.sum_flatten, List.map_map]
  exact congrArg List.sum (List.map_congr_left fun j _ => (congrArg List.sum List.map_map).trans (hrow j))

end Sys2Proof.Machine

namespace Sys2Proof.Proofs.FrameFamily

open Sys2Proof.Machine Sys2Proof.Claims

/-- Settles O42: a sample at `(x, y)` lies in the tile of column `x / tw` and row `y / th` alone. -/
theorem tilesPartition : Obligations.TilesPartition := by
  intro bd tw th d htw hth tiles
  have htiles := freshTiles_eq bd tw th d
  set W := ceilDiv bd.width tw
  set H := ceilDiv bd.height th
  have hget (m : Nat) (tl : Tile) : tiles[m]? = some tl ↔ m < W * H ∧ gridTile bd tw th d (m % W) (m / W) = tl := by
    rw [show tiles = _ from htiles, List.getElem?_eq_some_iff]
    simp only [List.length_map, List.length_range, List.getElem_map, List.getElem_range, exists_prop]
  have hgrid {m : Nat} (hm : m < W * H) : m % W < W ∧ m / W < H :=
    ⟨Nat.mod_lt _ (Nat.pos_of_lt_mul_right hm), Nat.div_lt_of_lt_mul hm⟩
  refine ⟨fun x y hx hy => ?_, fun tl htl => ?_, sum_areas htw hth, ?_⟩
  · have hcol : x / tw < W := (lt_ceilDiv_iff htw).mpr ((Nat.div_mul_le_self x tw).trans_lt hx)
    have hrow : y / th < H := (lt_ceilDiv_iff hth).mpr ((Nat.div_mul_le_self y th).trans_lt hy)
    refine ⟨W * (y / th) + x / tw, ⟨_, (hget _ _).mpr ⟨?_, rfl⟩, ?_⟩, ?_⟩
    · nlinarith
    · refine (gridTile_covers_iff htw hth hx hy).mpr ?_
      rw [Nat.mul_add_mod, Nat.mod_eq_of_lt hcol, Nat.mul_add_div (Nat.zero_lt_of_lt hcol), Nat.div_eq_of_lt hcol]
      exact ⟨rfl, rfl⟩
    · rintro m ⟨tl, htl, hin⟩
      obtain ⟨-, rfl⟩ := (hget m tl).mp htl
      obtain ⟨hi, hj⟩ := (gridTile_covers_iff htw hth hx hy).mp hin
      rw [hi, hj, Nat.div_add_mod]
  · obtain ⟨m, hm⟩ := List.mem_iff_getElem?.mp htl
    obtain ⟨hlt, rfl⟩ := (hget m tl).mp hm
    exact gridTile_bounds htw hth (hgrid hlt).1 (hgrid hlt).2
  · rw [show tiles = _ from htiles, List.length_map, List.length_range]

end Sys2Proof.Proofs.FrameFamily
end

section
/-! SUPPORT. The first bands of the three planes under writes, and INITTILES where each plane has one band of one tile
(45_frame_engine.md R317). -/

namespace Sys2Proof.Machine

open Sys2Proof.Claims

variable {s : State} {bd : Fin 3 → Band} {p : Fin 3} {tw th : Nat}

/-! ### The first bands -/

/-- The engine with other descriptors in the first band of each plane. -/
def State.withFirst (s : State) (bd : Fin 3 → Band) : State :=
  { s with planes := Vector.ofFn fun p => { s.planes[p] with bands := s.planes[p].bands.modify 0 fun _ => bd p } }

theorem State.withFirst_plane (s : State) (bd : Fin 3 → Band) (p : Fin 3) :
    (s.withFirst bd).planes[p] = { s.planes[p] with bands := s.planes[p].bands.modify 0 fun _ => bd p } := by
  simp [State.withFirst]

theorem State.bandOpt_fin (s : State) (p : Fin 3) (b : Nat) : s.band? p b = s.planes[p].bands[b]? := by
  simp [State.band?, State.plane?]

/-- Writing what the first bands hold changes nothing. -/
theorem State.withFirst_self (h : ∀ p : Fin 3, s.band? p 0 = some (bd p)) : s.withFirst bd = s := by
  have hplanes : (s.withFirst bd).planes = s.planes := Vector.ext fun i hi => by
    have hget := h ⟨i, hi⟩
    rw [State.bandOpt_fin] at hget
    refine (s.withFirst_plane bd ⟨i, hi⟩).trans ?_
    rw [modify_const_of_getElem? hget]
    rfl
  show { s with planes := (s.withFirst bd).planes } = s
  rw [hplanes]

theorem State.withFirst_bandOpt (h : (s.band? p 0).isSome = true) : (s.withFirst bd).band? p 0 = some (bd p) := by
  rw [State.bandOpt_fin] at h ⊢
  obtain ⟨old, hold⟩ := Option.isSome_iff_exists.mp h
  rw [State.withFirst_plane, List.getElem?_modify_eq, hold]
  rfl

theorem State.updBand_withFirst (s : State) (bd : Fin 3 → Band) (p : Fin 3) (f : Band → Band) :
    (s.withFirst bd).updBand p 0 f = s.withFirst (Function.update bd p (f (bd p))) := by
  have hplanes : ((s.withFirst bd).updBand p 0 f).planes = (s.withFirst (Function.update bd p (f (bd p)))).planes :=
    Vector.ext fun i hi => by
      refine Eq.trans ?_ (s.withFirst_plane _ ⟨i, hi⟩).symm
      have hold := s.withFirst_plane bd ⟨i, hi⟩
      simp only [Fin.getElem_fin] at hold
      simp only [State.updBand, State.updPlane, modifyPlane, Vector.getElem_mapIdx, hold]
      by_cases hip : i = p
      · subst hip
        simp [List.modify_modify_eq, Function.comp_def]
      · have hne : (⟨i, hi⟩ : Fin 3) ≠ p := fun h => hip (congrArg Fin.val h)
        simp [hip, Function.update_of_ne hne]
  show { s with planes := ((s.withFirst bd).updBand p 0 f).planes } = _
  rw [hplanes]
  rfl

theorem getBand_withFirst (h : (s.band? p 0).isSome = true) :
    getBand p 0 (s.withFirst bd) = .ok (bd p) (s.withFirst bd) := getBand_ok (State.withFirst_bandOpt h)

theorem updBand_withFirst (f : Band → Band) :
    updBand p 0 f (s.withFirst bd) = .ok () (s.withFirst (Function.update bd p (f (bd p)))) := by
  rw [updBand, update_apply, State.updBand_withFirst]

/-! ### One tile in each plane -/

/-- The band fits in one tile of that size, and has a macroblock size. -/
structure Band.FitsTile (bd : Band) (tw th : Nat) : Prop where
  width_pos : 0 < bd.width
  width_le : bd.width ≤ tw
  height_pos : 0 < bd.height
  height_le : bd.height ≤ th
  mbSize : bd.mbSize ≠ 0

/-- How many macroblocks a band of one tile has. -/
def Band.mbCount (bd : Band) : Nat := ceilDiv bd.width bd.mbSize * ceilDiv bd.height bd.mbSize

/-- The one tile of a band, with its reference. -/
def Band.oneTile (bd : Band) (ref : Option Nat) : Tile where
  xpos := 0
  ypos := 0
  width := bd.width
  height := bd.height
  mbSize := bd.mbSize
  isEmpty := false
  dataSize := 0
  mbs := List.replicate bd.mbCount Mb.zero
  refTile := ref

/-- The band with its one tile. -/
def Band.tiled (bd : Band) (ref : Option Nat) : Band := { bd with numTiles := 1, tiles := [bd.oneTile ref] }

theorem freshTile_of_fits {bd : Band} (h : bd.FitsTile tw th) (d : Nat) : freshTile bd tw th 0 0 d = bd.oneTile none := by
  have hw : min (bd.width - 0) tw = bd.width := min_eq_left h.width_le
  have hh : min (bd.height - 0) th = bd.height := min_eq_left h.height_le
  simp only [freshTile, hw, hh, mbCount, if_neg h.mbSize]
  rfl

theorem tilePositions_of_fits {bd : Band} (h : bd.FitsTile tw th) : tilePositions bd tw th = [(0, 0)] := by
  rw [tilePositions, ceilDiv_eq_one h.width_pos h.width_le, ceilDiv_eq_one h.height_pos h.height_le]
  simp [List.range_one]

section program

variable (hsome : ∀ p : Fin 3, (s.band? p 0).isSome = true)
include hsome

/-- The tile of a chroma band refers to the one luma tile. -/
theorem linkTile_one {ref : Tile} (hp : p ≠ 0) (hnum : (bd 0).numTiles = 1) (htiles : (bd 0).tiles = [ref])
    (hcount : ref.mbs.length = (bd p).mbCount) :
    linkTile p 0 0 (s.withFirst (Function.update bd p ((bd p).tiled none))) =
      .ok () (s.withFirst (Function.update bd p ((bd p).tiled (some 0)))) := by
  set bd' := Function.update bd p ((bd p).tiled none) with hbd'
  have hown : bd' p = (bd p).tiled none := Function.update_self ..
  have hluma : bd' 0 = bd 0 := Function.update_of_ne hp.symm ..
  have hband : (s.withFirst bd').band? 0 0 = some (bd 0) := hluma ▸ State.withFirst_bandOpt (p := 0) (hsome 0)
  have htile : (s.withFirst bd').tile? p 0 0 = some ((bd p).oneTile none) := by
    rw [State.tile?, State.withFirst_bandOpt (hsome p), hown]
    rfl
  have href : (s.withFirst bd').tile? 0 0 0 = some ref := by
    rw [State.tile?, hband]
    exact congrArg (·[0]?) htiles
  have hlen : ((bd p).oneTile none).mbs.length = ref.mbs.length := by simp [Band.oneTile, hcount]
  rw [linkTile, M.bind_ok (getTile_ok htile), M.bind_ok (look_apply _ _), hband, M.bind_ok (need_some _ _ _), hnum,
    decide_eq_false (by decide), M.bind_ok (raiseIf_false _ _), M.bind_ok (getTile_ok href), hlen, decide_eq_false (not_not.mpr rfl),
    M.bind_ok (raiseIf_false _ _), update_apply, State.updTile, State.updBand_withFirst, hown, hbd',
    Function.update_idem]
  rfl

/-- The reference of a band's one tile. -/
def tileRef (p : Fin 3) : Option Nat := if p = 0 then none else some 0

/-- What the band of plane 0 must be when the tile of another is linked to it. -/
def LinksTo (bd : Fin 3 → Band) (p : Fin 3) : Prop :=
  (bd 0).numTiles = 1 ∧ ∃ ref, (bd 0).tiles = [ref] ∧ ref.mbs.length = (bd p).mbCount

theorem buildTile_one (hfit : (bd p).FitsTile tw th) (hlink : p ≠ 0 → LinksTo bd p) :
    buildTile p 0 tw th ((0, 0), 0)
        (s.withFirst (Function.update bd p { bd p with numTiles := 1, tiles := [] })) =
      .ok () (s.withFirst (Function.update bd p ((bd p).tiled (tileRef p)))) := by
  set bd' := Function.update bd p { bd p with numTiles := 1, tiles := [] } with hbd'
  have hown : bd' p = { bd p with numTiles := 1, tiles := [] } := Function.update_self ..
  have hfit' : (bd' p).FitsTile tw th := hown ▸ ⟨hfit.1, hfit.2, hfit.3, hfit.4, hfit.5⟩
  have hpush (d : Nat) : pushTile p 0 (freshTile (bd' p) tw th 0 0 d) (s.withFirst bd') =
      .ok () (s.withFirst (Function.update bd p ((bd p).tiled none))) := by
    rw [pushTile, updBand_withFirst, freshTile_of_fits hfit', hown, hbd', Function.update_idem]
    rfl
  rw [buildTile, M.bind_ok (getBand_withFirst (hsome p)), M.bind_ok (look_apply _ _), M.bind_ok (hpush _),
    if_neg hfit'.mbSize, M.bind_ok (done_apply _)]
  by_cases hp : p = 0
  · rw [if_pos ⟨congrArg Fin.val hp, rfl⟩, tileRef, if_pos hp, done_apply]
  · obtain ⟨hnum, ref, htiles, hcount⟩ := hlink hp
    rw [if_neg fun h => hp (Fin.ext h.1), tileRef, if_neg hp]
    exact linkTile_one hsome hp hnum htiles hcount

theorem buildTiles_one (hfit : (bd p).FitsTile tw th) (hlink : p ≠ 0 → LinksTo bd p) :
    buildTiles p tw th 0 (s.withFirst bd) =
      .ok () (s.withFirst (Function.update bd p ((bd p).tiled (tileRef p)))) := by
  rw [buildTiles, M.bind_ok (getBand_withFirst (hsome p)), M.bind_ok (updBand_withFirst _),
    ceilDiv_eq_one hfit.width_pos hfit.width_le, ceilDiv_eq_one hfit.height_pos hfit.height_le,
    tilePositions_of_fits hfit]
  exact M.bind_ok (buildTile_one hsome hfit hlink)

end program

theorem planeTiles_one (hlen : ∀ p : Fin 3, s.planes[p].bands.length = 1)
    (hfit : (bd p).FitsTile (planeTileDim p tw) (planeTileDim p th)) (hlink : p ≠ 0 → LinksTo bd p) :
    planeTiles tw th p (s.withFirst bd) =
      .ok () (s.withFirst (Function.update bd p ((bd p).tiled (tileRef p)))) := by
  have hsome (p : Fin 3) : (s.band? p 0).isSome = true := by
    rw [State.bandOpt_fin, List.getElem?_eq_getElem (by rw [hlen]; exact Nat.one_pos)]
    rfl
  have hplane : (s.withFirst bd).plane? p = some (s.withFirst bd).planes[p] := by simp [State.plane?]
  have hcount : (s.withFirst bd).planes[p].bands.length = 1 := by
    rw [State.withFirst_plane, List.length_modify, hlen]
  have htw : planeTileDim p tw ≠ 0 := by have := hfit.width_pos; have := hfit.width_le; omega
  have hth : planeTileDim p th ≠ 0 := by have := hfit.height_pos; have := hfit.height_le; omega
  rw [planeTiles, M.bind_ok (look_apply _ _), hplane]
  simp only [hcount, show decide (1 = 4) = false from rfl, Bool.and_false, Bool.false_and, Bool.false_eq_true, if_false]
  rw [M.bind_ok (raiseIf_false _ _), decide_eq_false (by tauto), M.bind_ok (raiseIf_false _ _)]
  exact M.bind_ok (buildTiles_one hsome hfit hlink)

/-- INITTILES where each plane has one band that fits in one tile, with as many macroblocks in each. -/
theorem initTiles_one (hlen : ∀ p : Fin 3, s.planes[p].bands.length = 1)
    (hfit : ∀ p : Fin 3, (bd p).FitsTile (planeTileDim p tw) (planeTileDim p th))
    (hcount : ∀ p, (bd p).mbCount = (bd 0).mbCount) :
    initTiles tw th (s.withFirst bd) = .ok () (s.withFirst fun p => (bd p).tiled (tileRef p)) := by
  set bd0 := Function.update bd 0 ((bd 0).tiled (tileRef 0)) with hbd0
  set bd1 := Function.update bd0 1 ((bd 1).tiled (tileRef 1)) with hbd1
  have h10 : bd0 1 = bd 1 := rfl
  have h20 : bd1 2 = bd 2 := rfl
  have hlink0 : LinksTo bd0 1 := ⟨rfl, _, rfl, by rw [h10, hcount 1]; exact List.length_replicate⟩
  have hlink1 : LinksTo bd1 2 := ⟨rfl, _, rfl, by rw [h20, hcount 2]; exact List.length_replicate⟩
  have hrun0 := planeTiles_one (p := 0) hlen (hfit 0) fun h => absurd rfl h
  have hrun1 := planeTiles_one (p := 1) (bd := bd0) hlen (h10 ▸ hfit 1) fun _ => hlink0
  have hrun2 := planeTiles_one (p := 2) (bd := bd1) hlen (h20 ▸ hfit 2) fun _ => hlink1
  have hend : Function.update bd1 2 ((bd1 2).tiled (tileRef 2)) = fun p => (bd p).tiled (tileRef p) := by
    funext p
    fin_cases p <;> rfl
  rw [hend] at hrun2
  exact (M.bind_ok hrun0).trans ((M.bind_ok hrun1).trans ((M.bind_ok hrun2).trans (done_apply _)))

/-- What INITTILES leaves of the planes. -/
theorem State.withFirst_plane_one {old : Band} (h : s.planes[p].bands = [old]) (bd : Fin 3 → Band) :
    (s.withFirst bd).planes[p] = { s.planes[p] with bands := [bd p] } := by
  rw [State.withFirst_plane, h]
  rfl

end Sys2Proof.Machine

namespace Sys2Proof.Proofs.FrameFamily

open Sys2Proof.Machine Sys2Proof.Claims

/-- Settles O41: plane by plane, the one band gets its one tile, and the chroma tiles find the luma tile. -/
theorem tilesBuilt : Obligations.TilesBuilt := by
  intro s bd halloc hbands dim count hfits
  have hself : s.withFirst bd = s := State.withFirst_self fun p => by rw [State.bandOpt_fin, hbands]; rfl
  have hdim (p : Fin 3) (d : BitVec 16) : dim p d = planeTileDim p d.toNat := by fin_cases p <;> rfl
  have hrun := initTiles_one (s := s) (bd := bd) (tw := s.opr.tileWidth.toNat) (th := s.opr.tileHeight.toNat)
    (fun p => by rw [hbands]; rfl)
    (fun p => by
      obtain ⟨hw, hwle, hh, hhle, hms, -⟩ := hfits p
      exact ⟨hw, hdim p _ ▸ hwle, hh, hdim p _ ▸ hhle, hms⟩)
    (fun p => let ⟨_, _, _, _, _, heq⟩ := hfits p; heq)
  rw [hself] at hrun
  refine ⟨_, command_ok rfl (orBadState_eq_none.mpr (decide_eq_true halloc)) hrun, fun p => ?_, rfl⟩
  exact State.withFirst_plane_one (hbands p) _

end Sys2Proof.Proofs.FrameFamily
end

section
/-! SUPPORT. The ends of a DECFRAME in FULL mode (45_frame_engine.md R371, R372; 60_exceptions.md R410): it completes or is
aborted, and a frame that completes has not set FRAME_ABORTED. -/

namespace Sys2Proof.Machine

open Sys2Proof.Claims

variable {s t : State} {w : Grants} {α : Type}

/-- A DECFRAME in FULL mode completes, or is aborted. -/
theorem exec_decframe_full (hmode : s.opr.mode = .full) :
    (∃ t, frameSteps (s.bind s.opr.chunk s.opr.len) = .ok () t ∧ exec .decframe s = .next t.releaseScratch.complete) ∨
    ∃ e t, frameSteps (s.bind s.opr.chunk s.opr.len) = .error e t ∧
      exec .decframe s = .next ((frameAbort s t.releaseScratch).raised e) := by
  have hbody : decodeFrame s.opr s =
      onError (finally' frameSteps State.releaseScratch) (frameAbort s) (s.bind s.opr.chunk s.opr.len) := by
    rw [decodeFrame, hmode]
  cases hs : frameSteps (s.bind s.opr.chunk s.opr.len) with
  | ok u t => exact .inl ⟨t, rfl, command_ok rfl rfl (hbody.trans (onError_ok (finally_ok hs)))⟩
  | error e t =>
    refine .inr ⟨e, t, rfl, command_raises rfl rfl (hbody.trans ?_)⟩
    rw [onError, finally_error hs]

/-- The bound chunk stays bound. -/
theorem Writes.chunk (h : Writes w s t) : t.br.buf = s.br.buf ∧ t.br.sizeBits = s.br.sizeBits :=
  Prod.ext_iff.mp (h.same (fun s => (s.br.buf, s.br.sizeBits)) fun _ _ h => by cases h <;> rfl)

/-! ### FRAME_ABORTED -/

/-- The program leaves FRAME_ABORTED as it is. -/
abbrev KeepsAborted (m : M α) : Prop := Leads (fun s t => t.frameAborted = s.frameAborted) m

namespace KeepsAborted

theorem chains : Chains fun s t : State => t.frameAborted = s.frameAborted := Chains.same State.frameAborted

theorem of_limited {m : M α} (h : Limited w m) (hw : w.sequencer = false) : KeepsAborted m := fun s =>
  ⟨fun a t ht => (((h s).1 a t ht).sequencer hw).2.1, fun e t ht => (((h s).2 e t ht).sequencer hw).2.1⟩

theorem bind {β : Type} {m : M α} {f : α → M β} (hm : KeepsAborted m) (hf : ∀ a, KeepsAborted (f a)) :
    KeepsAborted (m >>= f) := leads_bind chains hm hf

theorem ite {c : Prop} [Decidable c] {m n : M α} (hm : KeepsAborted m) (hn : KeepsAborted n) :
    KeepsAborted (if c then m else n) := by
  split
  · exact hm
  · exact hn

theorem update {f : State → State} (hf : ∀ s, (f s).frameAborted = s.frameAborted := by intro; rfl) :
    KeepsAborted (Machine.update f) := leads_update hf

theorem look {f : State → α} : KeepsAborted (look f) := leads_look chains f

theorem raiseIf {b : Bool} {e : ErrKind} : KeepsAborted (raiseIf b e) := leads_raiseIf chains b e

theorem outputs {m : M Unit} (h : Limited { output := true } m) : KeepsAborted m := .of_limited h rfl

theorem frameOutput : KeepsAborted frameOutput := by
  have hplane (p : Nat) : KeepsAborted (sub (checkBand p 0) (Machine.update fun s => s.outputPlane p)) :=
    .outputs (.sub (leads_update fun s => State.outputPlane_writes rfl s p))
  refine .bind .look fun sc => .bind (.ite (.bind .update fun _ => ?_) (.bind .update fun _ => hplane 0)) fun _ =>
    .bind .update fun _ => .bind (hplane 2) fun _ => .bind (hplane 1) fun _ => .update
  cases sc.2 <;> exact .outputs (.sub (leads_update fun s => State.recompose_writes rfl s _))

theorem frameBody : KeepsAborted frameBody :=
  have hbands : KeepsAborted (forEach frameBands [0, 1, 2]) :=
    .of_limited (w := { cursor := true, arena := true }) (.forEach fun _ => .frameBands rfl rfl) rfl
  have hbufs : KeepsAborted (forEach needBandBuf [0, 1, 2]) :=
    .of_limited (w := {}) (.forEach fun _ => .bind .getBand fun _ => .raiseIf) rfl
  have hvalid : KeepsAborted checkDstValid := .bind .look fun _ => .raiseIf
  .bind .look fun _ => .bind .raiseIf fun _ => .bind .look fun _ => .ite .update <|
    .bind .look fun _ => .bind .raiseIf fun _ => .bind .look fun _ => .bind .raiseIf fun _ => .bind .update fun _ =>
    .bind .update fun _ => .bind .look fun _ => .ite
      (.bind .update fun _ => .bind .update fun _ => .bind hbands fun _ => .bind .update fun _ =>
        .bind hvalid fun _ => .frameOutput)
      (.bind .look fun _ => .bind .raiseIf fun _ => .bind hbufs fun _ => .bind hvalid fun _ => .update)

end KeepsAborted

/-- FRAME_ABORTED is cleared when a frame begins, and nothing but an abort sets it. -/
theorem frameSteps_notAborted (h : frameSteps s = .ok () t) : t.frameAborted = false := by
  have hheader : KeepsAborted (sub needStream pictureHeader) :=
    .of_limited (w := { cursor := true, arena := true }) (.sub (.pictureHeader rfl rfl)) rfl
  have hrest : KeepsAborted (goTo .picHdr >>= fun _ => sub needStream pictureHeader >>= fun _ => frameBody) :=
    .bind .update fun _ => .bind hheader fun _ => .frameBody
  exact (hrest _).1 () t h

end Sys2Proof.Machine

namespace Sys2Proof.Proofs.FrameFamily

open Sys2Proof.Machine Sys2Proof.Claims

/-- Settles O49: a frame that completes is idle and not aborted, and an abort takes the outputs back. -/
theorem frameAbortRule : Obligations.FrameAbortRule := by
  intro s hmode
  rcases exec_decframe_full hmode with ⟨t, hrun, hexec⟩ | ⟨e, t, hrun, hexec⟩
  · obtain ⟨hbuf, hsize⟩ := ((Limited.frameSteps _).1 _ _ hrun).chunk
    have hidle : t.fstep = .idle := Ends.frameSteps _ _ _ hrun
    have haborted : t.releaseScratch.complete.frameAborted = false := by
      simpa using frameSteps_notAborted hrun
    refine ⟨_, hexec, by simpa using hidle, by simpa using hbuf, by simpa using hsize,
      fun herr => absurd rfl herr, fun h => ?_⟩
    rw [haborted] at h
    cases h
  · obtain ⟨hbuf, hsize⟩ := ((Limited.frameSteps _).2 _ _ hrun).chunk
    exact ⟨_, hexec, rfl, by simpa [frameAbort] using hbuf, by simpa [frameAbort] using hsize, fun _ => rfl,
      fun _ => ⟨rfl, rfl⟩⟩

end Sys2Proof.Proofs.FrameFamily
end

section
/-! SUPPORT. The states in which the picture and GOP headers are read: only the header fields and the cursor differ from the
state the command starts from. -/

namespace Sys2Proof.Machine

open Sys2Proof.Claims

variable {s : State} {h : Header} {k n m : Nat}

/-- The engine `s` with the header fields `h`, and the cursor `k` bits on. -/
def State.reading (s : State) (h : Header) (k : Nat) : State := { s with hdr := h, br := atBit s (s.br.index + k) }

theorem State.reading_self (s : State) : s.reading s.hdr 0 = s := rfl

@[simp] theorem State.reading_hdr : (s.reading h k).hdr = h := rfl
@[simp] theorem State.reading_params : (s.reading h k).params = s.params := rfl
@[simp] theorem State.reading_picConf : (s.reading h k).picConf = s.picConf := rfl
@[simp] theorem State.reading_frameType : (s.reading h k).frameType = s.frameType := rfl

@[simp] theorem updHdr_reading (f : Header → Header) : updHdr f (s.reading h k) = .ok () (s.reading (f h) k) := rfl

theorem readBits_reading (hb : s.bound = true) (hs : streamHas s m) (hn : 0 < n) (hk : k + n ≤ m) :
    readBits n (s.reading h k) = .ok (field s k n) (s.reading h (k + n)) := by
  unfold State.reading
  rw [← Nat.add_assoc]
  exact readBits_of_streamHas hb hn (streamHas_moved hs hk)

theorem readFlag_reading (hb : s.bound = true) (hs : streamHas s m) (hk : k + 1 ≤ m) :
    readFlag (s.reading h k) = .ok (decide (field s k 1 = 1)) (s.reading h (k + 1)) :=
  M.bind_ok (readBits_reading hb hs Nat.one_pos hk)

theorem readField_reading (hb : s.bound = true) (hs : streamHas s m) (hn : 0 < n) (hk : k + n ≤ m) :
    readField n (s.reading h k) = .ok (BitVec.ofNat n (field s k n)) (s.reading h (k + n)) :=
  M.bind_ok (readBits_reading hb hs hn hk)

theorem rejectFlag_reading (hb : s.bound = true) (hs : streamHas s m) (hk : k + 1 ≤ m) (hflag : field s k 1 = 0)
    (e : ErrKind) : rejectFlag e (s.reading h k) = .ok () (s.reading h (k + 1)) := by
  rw [rejectFlag, M.bind_ok (readFlag_reading hb hs hk), hflag]
  rfl

/-- An optional field whose flag is 0. -/
theorem readOptional_reading (hb : s.bound = true) (hs : streamHas s m) (hk : k + 1 ≤ m) (hflag : field s k 1 = 0) :
    readOptional n (s.reading h k) = .ok 0 (s.reading h (k + 1)) := by
  rw [readOptional, M.bind_ok (readFlag_reading hb hs hk), hflag]
  rfl

theorem skipBits_reading (hb : s.bound = true) (hs : streamHas s m) (hn : 0 < n) (hk : k + n ≤ m) :
    skipBits n (s.reading h k) = .ok () (s.reading h (k + n)) := by
  have havail : (s.reading h k).avail n = true := State.avail_of_streamHas hn (streamHas_moved hs hk)
  rw [skipBits_ok (s := s.reading h k) hb havail]
  unfold State.moved State.reading
  rw [← Nat.add_assoc]
  rfl

theorem alignBits_reading (hb : s.bound = true) (hin : within s (aligned (s.br.index + k))) :
    alignBits (s.reading h k) = .ok () (s.reading h (aligned (s.br.index + k) - s.br.index)) := by
  rw [alignBits_ok (s := s.reading h k) hb hin]
  unfold State.reading
  rw [add_aligned_sub]
  rfl

end Sys2Proof.Machine
end

section
/-! SUPPORT. GOPHDR of the cached configuration (45_frame_engine.md R351, R352, R354, R355), part by part. -/

namespace Sys2Proof.Machine

open Sys2Proof.Claims

variable {s : State} {h : Header} {p b k m : Nat} {bd bd' : Band}

/-! ### The selections (R354, R355) -/

/-- What TXSEL5 gives a band: kernels, `is_2d_trans` and size, and the scan of its row. -/
def Band.transformed5 (bd : Band) (ks : InvTx × DcTx × Bool × Nat) (scan : Option (List Nat)) : Band :=
  { bd with
    invTransform := some ks.1, dcTransform := some ks.2.1, is2d := ks.2.2.1, transformSize := ks.2.2.2
    scan := scan, scanSize := ks.2.2.2 }

theorem selectTransform5_onBand (hbd : s.band? p b = some bd') {ks : InvTx × DcTx × Bool × Nat}
    (hks : kernels5 (p * 4 + b) = some ks) (hsize : ks.2.2.2 = bd.blkSize) :
    selectTransform5 p b (s.onBand p b bd h k) =
      .ok () (s.onBand p b (bd.transformed5 ks s.params.scans5[p * 4 + b]?) h k) := by
  simp [selectTransform5, M.bind_apply, hks, getBand_onBand hbd, hsize, Band.transformed5]

theorem selectQuant5_onBand (hbd : s.band? p b = some bd') {qm : Nat}
    (hqm : quantIndex5 s.picConf.lumaBands.toNat p b = qm) (hfits : bd.blkSize = 8 → qm < 5) :
    selectQuant5 p b (s.onBand p b bd h k) = .ok () (s.onBand p b (setQuant5 s.params.quant5 qm bd) h k) := by
  have hlook : quantIndex5 (s.onBand p b bd h k).picConf.lumaBands.toNat p b = qm := hqm
  have hsmall : (decide (bd.blkSize = 8) && decide (5 ≤ qm)) = false := by simpa using hfits
  simp [selectQuant5, M.bind_apply, hlook, getBand_onBand hbd, hsmall]

/-! ### One band (R352) -/

/-- The bits of a band: half-pel, macroblocks as large as blocks, small blocks, and no optional field. -/
structure GopBits (s : State) (k : Nat) (hpel mbf small : Bool) : Prop where
  halfpel : field s k 1 = hpel.toNat
  mbFlag : field s (k + 1) 1 = mbf.toNat
  small : field s (k + 2) 1 = small.toNat
  plain : field s (k + 3) 1 = 0
  mark : field s (k + 4) 2 = 0

/-- The block size of a band. -/
def gopBlk (small : Bool) : Nat := if small then 4 else 8

/-- Its macroblock size. -/
def gopMb (mbf small : Bool) : Nat := if mbf then gopBlk small else gopBlk small * 2

/-- The band with its flag and its sizes. -/
def Band.sized5 (bd : Band) (hpel mbf small : Bool) : Band :=
  { bd with isHalfpel := hpel, mbSize := gopMb mbf small, blkSize := gopBlk small }

theorem rejectFlag_onBand (hb : s.bound = true) (hs : streamHas s m) (hk : k + 1 ≤ m) (hflag : field s k 1 = 0)
    (e : ErrKind) : rejectFlag e (s.onBand p b bd h k) = .ok () (s.onBand p b bd h (k + 1)) := by
  simp [rejectFlag, M.bind_apply, readFlag_onBand hb hs hk, hflag]

theorem gopBand_onBand (hbd : s.band? p b = some bd') (hb : s.bound = true) (hs : streamHas s m) (hk : k + 6 ≤ m)
    {hpel mbf small : Bool} (hbits : GopBits s k hpel mbf small) (hluma : p = 0 → small = false)
    {ks : InvTx × DcTx × Bool × Nat} (hks : kernels5 (p * 4 + b) = some ks) (hsize : ks.2.2.2 = gopBlk small) {qm : Nat}
    (hqm : quantIndex5 s.picConf.lumaBands.toNat p b = qm) (hfits : gopBlk small = 8 → qm < 5) :
    gopBand p b (s.onBand p b bd h k) =
      .ok (decide (gopMb mbf small ≠ bd.mbSize ∨ gopBlk small ≠ bd.blkSize))
        (s.onBand p b (setQuant5 s.params.quant5 qm
          ((bd.sized5 hpel mbf small).transformed5 ks s.params.scans5[p * 4 + b]?)) h (k + 6)) := by
  obtain ⟨hhp, hmbf, hsmall, hplain, hmark⟩ := hbits
  have hblk : 8 / 2 ^ small.toNat = gopBlk small := by cases small <;> rfl
  have hflag (f : Bool) : decide (f.toNat = 1) = f := by cases f <;> rfl
  have hlarge : (decide (p = 0) && decide (gopBlk small = 4)) = false := by
    cases small
    · exact Bool.and_false _
    · exact Bool.and_eq_false_imp.mpr fun hp => absurd (hluma (of_decide_eq_true hp)) (by decide)
  have hset (k : Nat) : (if decide (gopMb mbf small ≠ bd.mbSize ∨ gopBlk small ≠ bd.blkSize) then
        updBand p b fun bd => { bd with mbSize := gopMb mbf small, blkSize := gopBlk small }
      else done) (s.onBand p b { bd with isHalfpel := hpel } h k) =
      .ok () (s.onBand p b (bd.sized5 hpel mbf small) h k) := by
    split_ifs with hchanged
    · exact updBand_onBand _
    · obtain ⟨hmb, hbk⟩ : gopMb mbf small = bd.mbSize ∧ gopBlk small = bd.blkSize := by simpa using hchanged
      rw [done_apply, Band.sized5, hmb, hbk]
  have htx (k : Nat) := selectTransform5_onBand (bd := bd.sized5 hpel mbf small) (h := h) (k := k) hbd hks hsize
  have hq (k : Nat) := selectQuant5_onBand (h := h) (k := k)
    (bd := (bd.sized5 hpel mbf small).transformed5 ks s.params.scans5[p * 4 + b]?) hbd hqm hfits
  simp only [gopBand]
  rw [M.bind_ok (getBand_onBand hbd), M.bind_ok (readFlag_onBand hb hs (by omega)), hhp, hflag,
    M.bind_ok (updBand_onBand _), M.bind_ok (readFlag_onBand hb hs (by omega)), hmbf, hflag,
    M.bind_ok (readBits_onBand hb hs Nat.one_pos (by omega)), hsmall, hblk, hlarge, M.bind_ok (raiseIf_false _ _),
    M.bind_ok (getBand_onBand hbd)]
  refine (M.bind_ok (hset _)).trans ?_
  rw [M.bind_ok (rejectFlag_onBand hb hs (by omega) hplain _), M.bind_ok (htx _), M.bind_ok (hq _),
    M.bind_ok (readBits_onBand hb hs (by decide) (by omega)), hmark, decide_eq_false (by decide),
    M.bind_ok (raiseIf_false _ _)]
  rfl

/-! ### The head and the end of a GOP header (R351) -/

theorem gopFields_reading (hb : s.bound = true) (hs : streamHas s m) (hk : 8 ≤ m) (hflags : field s 0 8 = 0) :
    gopFields (s.reading h 0) = .ok 0 (s.reading { h with gopFlags := 0, gopHdrSize := 0 } 8) := by
  rw [gopFields, M.bind_ok (readField_reading hb hs (by decide) (by omega)), hflags]
  rfl

/-- The configuration of one band in each plane, with the size coded by the escape and no tile size. -/
def escapeConfig5 (w h : Nat) : PicConf where
  picWidth := BitVec.ofNat 16 w
  picHeight := BitVec.ofNat 16 h
  chromaWidth := BitVec.ofNat 16 ((w + 3) / 4)
  chromaHeight := BitVec.ofNat 16 ((h + 3) / 4)
  tileWidth := BitVec.ofNat 16 w
  tileHeight := BitVec.ofNat 16 h
  lumaBands := 1
  chromaBands := 1

theorem readPicSize5_reading (hb : s.bound = true) (hs : streamHas s m) (hk : k + 30 ≤ m) (hescape : field s k 4 = 15) :
    readPicSize5 (s.reading h k) =
      .ok (BitVec.ofNat 16 (field s (k + 17) 13), BitVec.ofNat 16 (field s (k + 4) 13)) (s.reading h (k + 30)) := by
  have hwiden (v : Nat) (hv : v < 2 ^ 13) : (BitVec.ofNat 13 v).setWidth 16 = BitVec.ofNat 16 v :=
    BitVec.eq_of_toNat_eq (by simp only [BitVec.toNat_setWidth, BitVec.toNat_ofNat]; omega)
  rw [readPicSize5, M.bind_ok (readBits_reading hb hs (by decide) (by omega)), hescape, dif_neg (by decide),
    M.bind_ok (readField_reading hb hs (by decide) (by omega)),
    M.bind_ok (readField_reading hb hs (by decide) (by omega)), hwiden _ (field_lt ..), hwiden _ (field_lt ..)]
  rfl

theorem quarter_ofNat {v : Nat} (hv : v < 2 ^ 16) : quarter (BitVec.ofNat 16 v) = BitVec.ofNat 16 ((v + 3) / 4) := by
  rw [quarter, BitVec.toNat_ofNat, Nat.mod_eq_of_lt hv]

theorem readConfig5_reading (hb : s.bound = true) (hs : streamHas s m) (hk : 41 ≤ m) (hluma : field s 8 2 = 0)
    (hchroma : field s 10 1 = 0) (hescape : field s 11 4 = 15) :
    readConfig5 0 (s.reading h 8) = .ok (escapeConfig5 (field s 28 13) (field s 15 13)) (s.reading h 41) := by
  have htile : readTileDim5 0 (s.reading h 8) = .ok 0 (s.reading h 8) := rfl
  have hw : field s 28 13 < 2 ^ 16 := (field_lt s 28 13).trans (by decide)
  have hh : field s 15 13 < 2 ^ 16 := (field_lt s 15 13).trans (by decide)
  rw [readConfig5, M.bind_ok htile, M.bind_ok (readBits_reading hb hs (by decide) (by omega)), hluma,
    M.bind_ok (readBits_reading hb hs (by decide) (by omega)), hchroma]
  simp only [Nat.zero_mul, Nat.zero_add]
  rw [show unsupportedLayout 1 1 = false from rfl, M.bind_ok (raiseIf_false _ _),
    M.bind_ok (readPicSize5_reading hb hs (by omega) hescape)]
  refine (M.bind_ok (raiseIf_false _ _)).trans ?_
  simp only [quarter_ofNat hw, quarter_ofNat hh]
  rfl

theorem differs_self (cfg : PicConf) : differs cfg cfg = false := by simp [differs]

theorem configure5_cached (hvalid : s.hdr.gopInvalid = false) : configure5 s.picConf s = .ok false s := by
  rw [configure5, M.bind_ok (look_apply _ _), differs_self, hvalid]
  rfl

theorem gopTail_reading {i : Nat} (hb : s.bound = true) (hs : streamHas s (k + 24))
    (halign : s.br.index + k = aligned (s.br.index + i)) (hext : field s (k + 23) 1 = 0)
    (hin : within s (aligned (s.br.index + (k + 24)))) :
    gopTail 0 (s.reading h i) = .ok () (s.reading h (aligned (s.br.index + (k + 24)) - s.br.index)) := by
  have hpad : within s (aligned (s.br.index + i)) := by
    have havail := State.avail_iff.mp (State.avail_of_streamHas (Nat.succ_pos _) hs)
    omega
  have hk : aligned (s.br.index + i) - s.br.index = k := by omega
  have hnone : (if (0 : BitVec 8).getLsbD 3 then
      readBits 3 >>= fun v => raiseIf (decide (v ≠ 0)) .badHeader >>= fun _ =>
        readFlag >>= fun fill => if fill then skipBits 24 else done
     else done) (s.reading h i) = .ok () (s.reading h i) := rfl
  rw [gopTail, M.bind_ok hnone, M.bind_ok (alignBits_reading hb hpad), hk,
    M.bind_ok (skipBits_reading hb hs (by decide) (by omega)), M.bind_ok (readFlag_reading hb hs (by omega)), hext]
  exact (M.bind_ok (done_apply _)).trans (alignBits_reading hb hin)

/-! ### The bands of one in each plane (R352) -/

theorem gopBandList_two {s1 s2 : State} {c0 c1 c : Bool} (h0 : gopBand 0 0 s = .ok c0 s1)
    (h1 : gopBand 1 0 s1 = .ok c1 s2) : gopBandList [(0, 0), (1, 0)] c s = .ok c1 s2 :=
  (M.bind_ok h0).trans (M.bind_ok h1)

theorem gopBands_one {s1 s2 s3 : State} {c0 c1 c : Bool} (hluma : s.picConf.lumaBands = 1)
    (hchroma : s.picConf.chromaBands = 1) (h0 : gopBand 0 0 s = .ok c0 s1) (h1 : gopBand 1 0 s1 = .ok c1 s2)
    (h2 : copyChroma 0 s2 = .ok () s3) : gopBands c s = .ok c1 s3 := by
  rw [gopBands, M.bind_ok (look_apply _ _), hluma, hchroma]
  exact (M.bind_ok (gopBandList_two h0 h1)).trans (M.bind_ok (M.bind_ok h2))

theorem copyChroma_ok {src dst : Band} (hsrc : s.band? 1 b = some src) (hdst : s.band? 2 b = some dst) :
    copyChroma b s = .ok () (s.updBand 2 b fun _ => copyGopFields src dst) := by
  rw [copyChroma, M.bind_ok (getBand_ok hsrc), updBand, update_apply]
  exact congrArg (EStateM.Result.ok ()) (State.updBand_congr fun bd hbd => by
    rw [Option.some.inj (hbd.symm.trans hdst)])

/-- Going on to another band. -/
theorem State.onBand_next {p' b' : Nat} {next : Band} (h : Header) (k : Nat)
    (hnext : (s.updBand p b fun _ => bd).band? p' b' = some next) :
    s.onBand p b bd h k = (s.updBand p b fun _ => bd).onBand p' b' next h k := by
  rw [State.onBand, State.onBand, State.updBand_self hnext]
  rfl

/-- The one luma band of a stream after GOPBANDS. -/
def Band.gopLuma (bd : Band) (s : State) (hpel mbf : Bool) : Band :=
  setQuant5 s.params.quant5 0
    ((bd.sized5 hpel mbf false).transformed5 (.slant8, .dcslant8, true, 8) s.params.scans5[0]?)

/-- A chroma band of 4x4 blocks after GOPBANDS. -/
def Band.gopChroma (bd : Band) (s : State) (hpel mbf : Bool) : Band :=
  setQuant5 s.params.quant5 5
    ((bd.sized5 hpel mbf true).transformed5 (.slant4, .dcslant4, true, 4) s.params.scans5[4]?)

/-- Plane 0 selects, plane 1 selects, plane 2 copies. -/
def State.gopPlanes (s : State) (x y b2 : Band) : State :=
  ((s.updBand 0 0 fun _ => x).updBand 1 0 fun _ => y).updBand 2 0 fun _ => copyGopFields y b2

/-- The states `s` and `t` differ at most in the planes. -/
def State.SameButPlanes (s t : State) : Prop := t = { s with planes := t.planes }

theorem State.sameButPlanes_updBand {t : State} (h : s.SameButPlanes t) (p b : Nat) (f : Band → Band) :
    s.SameButPlanes (t.updBand p b f) := by
  unfold State.SameButPlanes at h
  generalize t.planes = planes at h
  subst h
  rfl

theorem State.sameButPlanes_gopPlanes (s : State) (x y b2 : Band) : s.SameButPlanes (s.gopPlanes x y b2) :=
  have hself : s.SameButPlanes s := rfl
  sameButPlanes_updBand (sameButPlanes_updBand (sameButPlanes_updBand hself _ _ _) _ _ _) _ _ _

theorem State.complete_reading_of_sameButPlanes {t : State} (ht : s.SameButPlanes t) :
    (t.reading h k).complete =
      { s with planes := t.planes, br := atBit s (s.br.index + k), err := .none, hdr := h } := by
  unfold State.SameButPlanes at ht
  generalize t.planes = planes at ht
  subst ht
  rfl

/-- GOPBANDS of one band in each plane, whose chroma band keeps its sizes. -/
theorem gopBands_selects {b0 b1 b2 : Band} {hp0 mbf0 hp1 mbf1 : Bool} (hb : s.bound = true) (hs : streamHas s m)
    (hk : k + 12 ≤ m) (hb0 : s.band? 0 0 = some b0) (hb1 : s.band? 1 0 = some b1) (hb2 : s.band? 2 0 = some b2)
    (hluma : s.picConf.lumaBands = 1) (hchroma : s.picConf.chromaBands = 1) (hbits0 : GopBits s k hp0 mbf0 false)
    (hbits1 : GopBits s (k + 6) hp1 mbf1 true) (hmb : gopMb mbf1 true = b1.mbSize) (hblk : gopBlk true = b1.blkSize) :
    gopBands false (s.reading h k) =
      .ok false ((s.gopPlanes (b0.gopLuma s hp0 mbf0) (b1.gopChroma s hp1 mbf1) b2).reading h (k + 12)) := by
  set x := b0.gopLuma s hp0 mbf0
  set y := b1.gopChroma s hp1 mbf1
  set s1 := s.updBand 0 0 fun _ => x with hs1
  set s2 := s1.updBand 1 0 fun _ => y with hs2
  have hband1 : s1.band? 1 0 = some b1 := by simp [hs1, State.updBand_bandOpt_all, hb1]
  have hband1' : s2.band? 1 0 = some y := by simp [hs2, State.updBand_bandOpt_all, hband1]
  have hband2 : s2.band? 2 0 = some b2 := by simp [hs2, hs1, State.updBand_bandOpt_all, hb2]
  have hbits1' : GopBits s1 (k + 6) hp1 mbf1 true := ⟨hbits1.1, hbits1.2, hbits1.3, hbits1.4, hbits1.5⟩
  have hrun0 : gopBand 0 0 (s.onBand 0 0 b0 h k) = .ok _ (s.onBand 0 0 x h (k + 6)) :=
    gopBand_onBand (qm := 0) hb0 hb hs (by omega) hbits0 (fun _ => rfl) rfl rfl (by rw [hluma]; rfl) fun _ => by decide
  have hrun1 : gopBand 1 0 (s1.onBand 1 0 b1 h (k + 6)) = .ok _ (s1.onBand 1 0 y h (k + 6 + 6)) :=
    gopBand_onBand (s := s1) (qm := 5) hband1 hb hs (by omega) hbits1' (fun h => nomatch h) rfl rfl rfl
      fun h => nomatch h
  rw [decide_eq_false (by simp [hmb, hblk]), ← State.onBand_next h (k + 6) hband1] at hrun1
  have hstart : s.onBand 0 0 b0 h k = s.reading h k := by
    rw [State.onBand, State.updBand_self hb0]
    rfl
  rw [← hstart]
  exact gopBands_one hluma hchroma hrun0 hrun1 (copyChroma_ok (s := s2.reading h (k + 12)) hband1' hband2)

end Sys2Proof.Machine

namespace Sys2Proof.Proofs.FrameFamily

open Sys2Proof.Machine Sys2Proof.Claims

/-- Settles O45: the configuration read is the cached one, the bands of planes 0 and 1 select in turn, plane 2 copies. -/
theorem gopHeaderSelects : Obligations.GopHeaderSelects := by
  intro s b0 b1 b2 hp0 mbf0 hp1 mbf1 hb hvalid hb0 hb1 hb2 tail hs hflags hl hc hescape hconf hhp0 hmbf0 hsh0 hplain0
    hmark0 hhp1 hmbf1 hsh1 hplain1 hmark1 hblk1 hmb1 hext hin
  have htail : s.br.index + tail = aligned (s.br.index + 53) := add_aligned_sub _ _
  have hm : 53 ≤ tail := by unfold aligned at htail; omega
  have hmb : gopMb mbf1 true = b1.mbSize := by rw [hmb1]; cases mbf1 <;> rfl
  have hbands := gopBands_selects (h := { s.hdr with gopFlags := 0, gopHdrSize := 0 }) hb hs (show 41 + 12 ≤ _ by omega)
    hb0 hb1 hb2 (by rw [hconf]) (by rw [hconf]) ⟨hhp0, hmbf0, hsh0, hplain0, hmark0⟩
    ⟨hhp1, hmbf1, hsh1, hplain1, hmark1⟩ hmb hblk1.symm
  set hdr : Header := { s.hdr with gopFlags := 0, gopHdrSize := 0 } with hhdr
  set planes := s.gopPlanes (b0.gopLuma s hp0 mbf0) (b1.gopChroma s hp1 mbf1) b2
  have hheader : gopHeader s = .ok () (planes.reading hdr (aligned (s.br.index + (tail + 24)) - s.br.index)) := by
    have hconfig : configure5 (escapeConfig5 (field s 28 13) (field s 15 13)) (s.reading hdr 41) =
        .ok false (s.reading hdr 41) := by
      rw [show escapeConfig5 (field s 28 13) (field s 15 13) = s.picConf from hconf.symm]
      exact configure5_cached (s := s.reading hdr 41) hvalid
    rw [gopHeader, ← s.reading_self, M.bind_ok (gopFields_reading hb hs (by omega) hflags),
      M.bind_ok (readConfig5_reading hb hs (by omega) hl hc hescape), M.bind_ok hconfig, M.bind_ok hbands]
    exact (M.bind_ok (done_apply _)).trans (gopTail_reading (s := planes) hb hs htail hext hin)
  refine ⟨b0.gopLuma s hp0 mbf0, b1.gopChroma s hp1 mbf1, copyGopFields (b1.gopChroma s hp1 mbf1) b2, ?_, ?_, rfl, ?_⟩
  · cases mbf0 <;> rfl
  · have hsized : b1.sized5 hp1 mbf1 true = { b1 with isHalfpel := hp1 } := by
      rw [Band.sized5, hmb, show gopBlk true = b1.blkSize from hblk1.symm]
    have hsmall : ¬b1.blkSize = 8 := by rw [hblk1]; decide
    rw [Band.gopChroma, hsized]
    exact if_neg (c := b1.blkSize = 8) hsmall
  · rw [exec_reader_ok rfl rfl hb hheader,
      State.complete_reading_of_sameButPlanes (s.sameButPlanes_gopPlanes _ _ _)]
    change Host.Outcome.next { s with
      planes := planes.planes, br := atBit s (s.br.index + (aligned (s.br.index + (tail + 24)) - s.br.index))
      err := .none, hdr := hdr } = _
    rw [add_aligned_sub]
    rfl

end Sys2Proof.Proofs.FrameFamily
end

section
/-! SUPPORT. The picture header and the output commands neither read nor write FSTEP and `STATUS.ERR`, so they do in
DECFRAME what they do as commands of their own (45_frame_engine.md R371), and what they raise is an error kind other than 0
(60_exceptions.md R401). One lemma for each program, along its steps; `Oblivious` says the same of `STATUS.ERR`, `RES` and
the operand registers. -/

namespace Sys2Proof.Machine

variable {α β : Type}

/-- The engine at another step of the frame, with another error kind in `STATUS.ERR`. -/
def State.atStep (s : State) (f : FStep) (e : ErrKind) : State := { s with fstep := f, err := e }

/-- The program does the same at every step of the frame and whatever `STATUS.ERR` is, and keeps both. -/
def StepBlind (m : M α) : Prop := ∀ s,
  (∃ a s', m s = .ok a s' ∧ ∀ f e, m (s.atStep f e) = .ok a (s'.atStep f e)) ∨
  ∃ k s', k ≠ ErrKind.none ∧ m s = .error k s' ∧ ∀ f e, m (s.atStep f e) = .error k (s'.atStep f e)

/-- `g` reads neither FSTEP nor `STATUS.ERR`; `rfl` proves it of one that names neither. -/
def IgnoresStep (g : State → α) : Prop := (fun s f e => g (State.atStep s f e)) = fun s _ _ => g s

theorem IgnoresStep.atStep {g : State → α} (hg : IgnoresStep g) (s : State) (f : FStep) (e : ErrKind) :
    g (s.atStep f e) = g s := congrFun (congrFun (congrFun hg s) f) e

/-- `g` reads neither of the two and keeps them; `rfl` proves it of one that names neither. -/
def KeepsStep (g : State → State) : Prop := (fun s f e => g (State.atStep s f e)) = fun s f e => (g s).atStep f e

theorem keepsStep_iff {g : State → State} : KeepsStep g ↔ ∀ s f e, g (s.atStep f e) = (g s).atStep f e := by
  simp only [KeepsStep, funext_iff]

namespace StepBlind

/-! ### Putting programs together -/

theorem bind {m : M α} {g : α → M β} (hm : StepBlind m) (hg : ∀ a, StepBlind (g a)) : StepBlind (m >>= g) := by
  intro s
  rcases hm s with ⟨a, s', h, hstep⟩ | ⟨k, s', hk, h, hstep⟩
  · rcases hg a s' with ⟨c, t, h', hstep'⟩ | ⟨k, t, hk, h', hstep'⟩
    · exact .inl ⟨c, t, (M.bind_ok h).trans h', fun f e => (M.bind_ok (hstep f e)).trans (hstep' f e)⟩
    · exact .inr ⟨k, t, hk, (M.bind_ok h).trans h', fun f e => (M.bind_ok (hstep f e)).trans (hstep' f e)⟩
  · exact .inr ⟨k, s', hk, M.bind_error h, fun f e => M.bind_error (hstep f e)⟩

theorem ite {c : Prop} [Decidable c] {m n : M α} (hm : StepBlind m) (hn : StepBlind n) :
    StepBlind (if c then m else n) := by
  split
  · exact hm
  · exact hn

theorem dite {c : Prop} [Decidable c] {m : c → M α} {n : ¬c → M α} (hm : ∀ h, StepBlind (m h))
    (hn : ∀ h, StepBlind (n h)) : StepBlind (if h : c then m h else n h) := by
  split
  · exact hm _
  · exact hn _

theorem pure {a : α} : StepBlind (pure a : M α) := fun s => .inl ⟨a, s, rfl, fun _ _ => rfl⟩

theorem done : StepBlind done := pure

theorem raise {k : ErrKind} (hk : k ≠ .none) : StepBlind (raise k : M α) := fun s => .inr ⟨k, s, hk, rfl, fun _ _ => rfl⟩

theorem raiseIf {bad : Bool} {k : ErrKind} (hk : k ≠ .none) : StepBlind (raiseIf bad k) := by
  cases bad
  · exact done
  · exact raise hk

theorem look {g : State → α} (hg : IgnoresStep g) : StepBlind (look g) :=
  fun s => .inl ⟨g s, s, rfl, fun f e => congrArg (fun a => EStateM.Result.ok a (s.atStep f e)) (hg.atStep s f e)⟩

theorem need {k : ErrKind} {x : Option α} (hk : k ≠ .none) : StepBlind (need k x) := by
  cases x
  · exact raise hk
  · exact pure

theorem update {g : State → State} (hg : KeepsStep g) : StepBlind (update g) :=
  fun s => .inl ⟨(), g s, rfl, fun f e => congrArg (EStateM.Result.ok ()) (keepsStep_iff.mp hg s f e)⟩

theorem forEach {g : α → M Unit} {l : List α} (hg : ∀ a, StepBlind (g a)) : StepBlind (forEach g l) := by
  induction l with
  | nil => exact done
  | cons a l ih => exact .bind (hg a) fun _ => ih

theorem repeatWhile {m : M Bool} (hm : StepBlind m) {n : Nat} : StepBlind (repeatWhile m n) := by
  induction n with
  | zero => exact raise nofun
  | succ n ih => exact .bind hm fun _ => .ite ih .done

/-- A program that looks at the state it starts from. -/
theorem withState {g : State → M α} (hg : ∀ s, StepBlind (g s)) (hs : IgnoresStep g) : StepBlind (fun s => g s s) := by
  intro s
  rcases hg s s with ⟨a, s', h, hstep⟩ | ⟨k, s', hk, h, hstep⟩
  · exact .inl ⟨a, s', h, fun f e => (congrFun (hs.atStep s f e) _).trans (hstep f e)⟩
  · exact .inr ⟨k, s', hk, h, fun f e => (congrFun (hs.atStep s f e) _).trans (hstep f e)⟩

theorem readLoop {m : M Bool} (hm : StepBlind m) : StepBlind (readLoop m) :=
  withState (g := fun s => Machine.repeatWhile m s.loopFuel) (fun _ => repeatWhile hm) rfl

/-- A command run by another one: its head check raises, or its body runs. -/
def checked (body : M Unit) : Option ErrKind → M Unit
  | some e => Machine.raise e
  | none => body

theorem sub_eq_checked (check : State → Option ErrKind) (body : M Unit) :
    Machine.sub check body = fun s => checked body (check s) s := by
  funext s
  unfold Machine.sub
  cases check s <;> rfl

theorem sub {check : State → Option ErrKind} {body : M Unit} (hkind : ∀ s, check s ≠ some .none) (hb : StepBlind body)
    (hcheck : IgnoresStep check) : StepBlind (sub check body) := by
  rw [sub_eq_checked]
  refine withState (g := fun s => checked body (check s)) (fun s => ?_) ?_
  · cases hc : check s with
    | some e => exact raise fun he => hkind s (he ▸ hc)
    | none => exact hb
  · funext s f e
    exact congrArg (checked body) (hcheck.atStep s f e)

theorem onError {m : M α} {repair : State → State} (hm : StepBlind m) (hr : KeepsStep repair) :
    StepBlind (onError m repair) := by
  intro s
  rcases hm s with ⟨a, s', h, hstep⟩ | ⟨k, s', hk, h, hstep⟩
  · exact .inl ⟨a, s', by rw [Machine.onError, h], fun f e => by rw [Machine.onError, hstep]⟩
  · exact .inr ⟨k, repair s', hk, by rw [Machine.onError, h],
      fun f e => by rw [Machine.onError, hstep, ← keepsStep_iff.mp hr]⟩

/-! ### Single steps -/

theorem updHdr {g : Header → Header} : StepBlind (updHdr g) := .update rfl

theorem updBand {p b : Nat} {g : Band → Band} : StepBlind (updBand p b g) := .update rfl

theorem getBand {p b : Nat} : StepBlind (getBand p b) :=
  .withState (g := fun s => Machine.need _ (s.band? p b)) (fun _ => .need nofun) rfl

theorem getTile {p b t : Nat} : StepBlind (getTile p b t) :=
  .withState (g := fun s => Machine.need _ (s.tile? p b t)) (fun _ => .need nofun) rfl

/-- A read that the bitstream and its padding may refuse. -/
theorem ofReadError {n : Nat} {m : M α} (val : State → α) (next : State → State)
    (hm : ∀ s, m s = match s.readError n with | some e => .error e s | none => .ok (val s) (next s))
    (hval : IgnoresStep val) (hnext : KeepsStep next) : StepBlind m := by
  intro s
  have hread (f : FStep) (e : ErrKind) : (s.atStep f e).readError n = s.readError n := rfl
  cases herr : s.readError n with
  | some k =>
    refine .inr ⟨k, s, fun hk => Oblivious.readError_ne_none s n (hk ▸ herr), by rw [hm, herr], fun f e => ?_⟩
    rw [hm, hread, herr]
  | none =>
    refine .inl ⟨val s, next s, by rw [hm, herr], fun f e => ?_⟩
    rw [hm, hread, herr, hval.atStep, keepsStep_iff.mp hnext]

theorem readBits {n : Nat} : StepBlind (readBits n) :=
  .ofReadError (fun s => s.peek n) (fun s => (s.looked n).moved n) (fun _ => rfl) rfl rfl

theorem skipBits {n : Nat} : StepBlind (skipBits n) := .ofReadError (fun _ => ()) (fun s => s.moved n) (fun _ => rfl) rfl rfl

theorem alignBits : StepBlind alignBits := .withState (g := fun s => Machine.skipBits s.alignGap) (fun _ => .skipBits) rfl

theorem readFlag : StepBlind readFlag := .bind .readBits fun _ => .pure

theorem readField {n : Nat} : StepBlind (readField n) := .bind .readBits fun _ => .pure

theorem rejectFlag {e : ErrKind} (he : e ≠ .none) : StepBlind (rejectFlag e) := .bind .readFlag fun _ => .raiseIf he

theorem readOptional {n : Nat} : StepBlind (readOptional n) := .bind .readFlag fun _ => .ite .readBits .pure

/-! ### Huffman descriptors (41_vlc.md R178) -/

theorem getHuffReg {t : Nat} : StepBlind (getHuffReg t) :=
  .withState (g := fun s => Machine.need _ (s.huffReg? t)) (fun _ => .need nofun) rfl

theorem setHuffReg_atStep (s : State) (f : FStep) (e : ErrKind) (t : Nat) (h : HuffTab) :
    (s.atStep f e).setHuffReg t h = (s.setHuffReg t h).atStep f e := by
  unfold State.setHuffReg
  split_ifs <;> rfl

theorem updHuffReg {t : Nat} {g : HuffTab → HuffTab} : StepBlind (updHuffReg t g) :=
  .bind .getHuffReg fun _ => .update <| keepsStep_iff.mpr fun s f e => setHuffReg_atStep s f e t _

theorem readValues {k n : Nat} : StepBlind (readValues k n) := by
  induction n with
  | zero => exact pure
  | succ n ih => exact .bind .readBits fun _ => .bind ih fun _ => .pure

theorem readDesc {n : Nat} : StepBlind (readDesc n) := .bind .readValues fun _ => .pure

theorem huffBuild48 {d : HuffDesc} : StepBlind (huffBuild48 d) :=
  .withState (g := fun s => Machine.buildInto48 (huffBuild s.params d) fun s => { s with slot48 := none })
    (fun s => by
      cases huffBuild s.params d with
      | ok t => exact fun _ => .inl ⟨_, _, rfl, fun _ _ => rfl⟩
      | error k => exact fun _ => .inr ⟨k.kind, _, by cases k <;> decide, rfl, fun _ _ => rfl⟩) rfl

theorem decodeCustom {t : Nat} : StepBlind (decodeCustom t) := by
  have hbuild (new : HuffDesc) := StepBlind.onError (m := Machine.huffBuild48 new) .huffBuild48
    (repair := fun s => match s.huffReg? t with
      | some h => s.setHuffReg t { h with custDesc := { h.custDesc with numRows := 0 }, custTab := none }
      | none => s)
    (keepsStep_iff.mpr fun s f e => by
      have hreg : (s.atStep f e).huffReg? t = s.huffReg? t := rfl
      rw [hreg]
      cases s.huffReg? t with
      | some h => exact setHuffReg_atStep s f e t _
      | none => rfl)
  exact .bind .readBits fun _ => .bind (.raiseIf nofun) fun _ => .bind .readDesc fun new => .bind .getHuffReg fun _ =>
    .bind (.ite .done <| .bind .updHuffReg fun _ => .bind (hbuild new) fun _ => .bind (.look rfl) fun _ => .updHuffReg)
      fun _ => .updHuffReg

theorem decodeHuffDesc {t : Nat} {kind : VlcKind} {coded : Bool} : StepBlind (decodeHuffDesc t kind coded) :=
  .ite (.bind .readField fun _ => .bind .updHuffReg fun _ => .ite .decodeCustom .updHuffReg)
    (.bind (.look rfl) fun policy => by
      cases policy with
      | reuse => exact .done
      | default7 => exact .updHuffReg)

/-! ### Planes and tiles (45_frame_engine.md R310 to R317) -/

theorem initPlanes {cfg : PicConf} : StepBlind (initPlanes cfg) := by
  intro s
  unfold Machine.initPlanes
  cases configFits cfg with
  | true => exact .inl ⟨(), _, rfl, fun _ _ => rfl⟩
  | false => exact .inr ⟨.allocFail, _, nofun, rfl, fun _ _ => rfl⟩

theorem reallocate {cfg : PicConf} : StepBlind (reallocate cfg) := .bind .initPlanes fun _ => .update rfl

theorem linkTile {p b t : Nat} : StepBlind (linkTile p b t) :=
  .bind .getTile fun _ => .bind (.look rfl) fun _ => .bind (.need nofun) fun _ => .bind (.raiseIf nofun) fun _ =>
    .bind .getTile fun _ => .bind (.raiseIf nofun) fun _ => .update rfl

theorem buildTile {p b tw th : Nat} {e : (Nat × Nat) × Nat} : StepBlind (buildTile p b tw th e) :=
  .bind .getBand fun _ => .bind (.look rfl) fun _ => .bind .updBand fun _ => .bind (.ite (.update rfl) .done) fun _ =>
    .ite .done .linkTile

theorem buildTiles {p tw th b : Nat} : StepBlind (buildTiles p tw th b) :=
  .bind .getBand fun _ => .bind .updBand fun _ => .forEach fun _ => .buildTile

theorem planeTiles {tw th p : Nat} : StepBlind (planeTiles tw th p) :=
  .bind (.look rfl) fun _ => .bind (.raiseIf nofun) fun _ => .bind (.raiseIf nofun) fun _ => .forEach fun _ => .buildTiles

theorem initTiles {tw th : Nat} : StepBlind (Machine.sub checkAllocated (initTiles tw th)) :=
  .sub (fun _ => Oblivious.orBadState_ne_none _) (.forEach fun _ => .planeTiles) rfl

/-! ### The INDEO4 picture header (R330) -/

theorem readFrameType : StepBlind readFrameType :=
  .bind (.update rfl) fun _ => .bind .readField fun _ => .bind (.update rfl) fun _ => .pure

theorem readPicSize4 : StepBlind readPicSize4 :=
  .bind .readBits fun _ => .dite (fun _ => .look rfl) fun _ => .bind .readField fun _ => .bind .readField fun _ => .pure

theorem readTileDims4 {pic : BitVec 16 × BitVec 16} : StepBlind (readTileDims4 pic) :=
  .bind .readFlag fun _ => .bind .updHdr fun _ => .ite (.bind .readBits fun _ => .bind .readBits fun _ => .pure) .pure

theorem readQuad {n : Nat} : StepBlind (readQuad n) := by
  induction n with
  | zero => exact pure
  | succ n ih => exact .bind .readBits fun _ => .ite ih .pure

theorem readSubdiv : StepBlind readSubdiv := .bind .readBits fun _ => .ite .pure (.ite .readQuad .pure)

theorem readConfig4 : StepBlind readConfig4 :=
  .bind .readPicSize4 fun _ => .bind .readTileDims4 fun _ => .bind .readBits fun _ => .bind (.raiseIf nofun) fun _ =>
    .bind .readSubdiv fun _ => .bind (.ite .readSubdiv .pure) fun _ => .pure

theorem configure4 : StepBlind configure4 :=
  .bind .readConfig4 fun _ => .bind .updHdr fun _ => .bind (.raiseIf nofun) fun _ => .bind (.look rfl) fun _ =>
    .bind (.ite .reallocate .done) fun _ => .bind (.update rfl) fun _ => .bind (.look rfl) fun _ => .initTiles

theorem extensionByte4 : StepBlind extensionByte4 :=
  .bind .readFlag fun _ => .ite
    (.bind (.look rfl) fun _ => .bind (.raiseIf nofun) fun _ => .bind .skipBits fun _ => .pure) .pure

theorem readRvmapSel4 : StepBlind readRvmapSel4 := .bind .readFlag fun _ => .ite (.bind .readBits fun _ => .pure) .pure

theorem pictureFields4 : StepBlind pictureFields4 :=
  .bind .readOptional fun _ => .bind .updHdr fun _ => .bind .readFlag fun _ => .bind (.ite .skipBits .done) fun _ =>
    .bind .readFlag fun _ => .bind .decodeHuffDesc fun _ => .bind .readFlag fun _ => .bind .decodeHuffDesc fun _ =>
    .bind .readRvmapSel4 fun _ => .bind .updHdr fun _ => .bind .readFlag fun _ => .bind .updHdr fun _ =>
    .bind .readFlag fun _ => .bind .updHdr fun _ => .bind .readField fun _ => .bind .updHdr fun _ =>
    .bind .readOptional fun _ => .bind .updHdr fun _ => .bind .readOptional fun _ => .bind .updHdr fun _ =>
    .bind (.readLoop .extensionByte4) fun _ => .bind .readBits fun _ => .alignBits

theorem pictureHeader4 : StepBlind pictureHeader4 :=
  .bind .readBits fun _ => .bind (.raiseIf nofun) fun _ => .bind .readFrameType fun _ => .bind (.raiseIf nofun) fun _ =>
    .bind (.ite .updHdr .done) fun _ => .bind .readFlag fun _ => .bind .updHdr fun _ => .bind (.rejectFlag nofun) fun _ =>
    .bind .readOptional fun _ => .bind .updHdr fun _ => .ite .done <| .bind .readFlag fun _ =>
    .bind (.ite .skipBits .done) fun _ => .bind .configure4 fun _ => .pictureFields4

/-! ### The INDEO5 headers (R350 to R352) -/

theorem extensionBlock5 : StepBlind extensionBlock5 :=
  .bind .readBits fun _ => .bind (.look rfl) fun _ => .ite .pure (.bind .skipBits fun _ => .pure)

theorem selectTransform5 {p b : Nat} : StepBlind (selectTransform5 p b) :=
  .bind (.need nofun) fun _ => .bind (.look rfl) fun _ => .bind .updBand fun _ => .bind .getBand fun _ => .raiseIf nofun

theorem selectQuant5 {p b : Nat} : StepBlind (selectQuant5 p b) :=
  .bind (.look rfl) fun _ => .bind .getBand fun _ => .bind (.raiseIf nofun) fun _ => .bind (.look rfl) fun _ => .updBand

theorem gopBand {p b : Nat} : StepBlind (gopBand p b) :=
  .bind .getBand fun _ => .bind .readFlag fun _ => .bind .updBand fun _ => .bind .readFlag fun _ =>
    .bind .readBits fun _ => .bind (.raiseIf nofun) fun _ => .bind .getBand fun _ => .bind (.ite .updBand .done) fun _ =>
    .bind (.rejectFlag nofun) fun _ => .bind .selectTransform5 fun _ => .bind .selectQuant5 fun _ =>
    .bind .readBits fun _ => .bind (.raiseIf nofun) fun _ => .pure

theorem gopBandList {l : List (Nat × Nat)} {changed : Bool} : StepBlind (gopBandList l changed) := by
  induction l generalizing changed with
  | nil => exact pure
  | cons _ l ih => exact .bind .gopBand fun _ => ih

theorem gopBands {changed : Bool} : StepBlind (gopBands changed) :=
  .bind (.look rfl) fun _ => .bind .gopBandList fun _ =>
    .bind (.forEach fun _ => .bind .getBand fun _ => .updBand) fun _ => .pure

theorem readPicSize5 : StepBlind readPicSize5 :=
  .bind .readBits fun _ => .dite (fun _ => .look rfl) fun _ => .bind .readField fun _ => .bind .readField fun _ => .pure

theorem readTileDim5 {flags : BitVec 8} : StepBlind (readTileDim5 flags) :=
  .bind (.ite (.bind .readBits fun _ => .pure) .pure) fun _ => .bind (.raiseIf nofun) fun _ => .pure

theorem readConfig5 {flags : BitVec 8} : StepBlind (readConfig5 flags) :=
  .bind .readTileDim5 fun _ => .bind .readBits fun _ => .bind .readBits fun _ => .bind (.raiseIf nofun) fun _ =>
    .bind .readPicSize5 fun _ => .bind (.raiseIf nofun) fun _ => .pure

theorem configure5 {cfg : PicConf} : StepBlind (configure5 cfg) :=
  .bind (.look rfl) fun _ => .ite (.bind .reallocate fun _ => .bind .updHdr fun _ => .pure) .pure

theorem gopTail {flags : BitVec 8} : StepBlind (gopTail flags) :=
  .bind (.ite (.bind .readBits fun _ => .bind (.raiseIf nofun) fun _ => .bind .readFlag fun _ => .ite .skipBits .done)
      .done) fun _ =>
    .bind .alignBits fun _ => .bind .skipBits fun _ => .bind .readFlag fun _ =>
    .bind (.ite (.readLoop <| .bind .readBits fun _ => .pure) .done) fun _ => .alignBits

theorem gopFields : StepBlind gopFields :=
  .bind .readField fun _ => .bind .updHdr fun _ => .bind (.ite .readBits .pure) fun _ => .bind .updHdr fun _ =>
    .bind (.ite (.bind .readField fun _ => .updHdr) .done) fun _ => .pure

theorem gopHeader : StepBlind gopHeader :=
  .bind .gopFields fun _ => .bind .readConfig5 fun _ => .bind .configure5 fun _ => .bind .gopBands fun _ =>
    .bind (.ite (.bind (.look rfl) fun _ => .initTiles) .done) fun _ => .gopTail

theorem pictureFields5 : StepBlind pictureFields5 :=
  .bind .readField fun _ => .bind .updHdr fun _ => .bind (.ite .readBits .pure) fun _ => .bind .updHdr fun _ =>
    .bind (.ite .readBits .pure) fun _ => .bind .updHdr fun _ => .bind (.ite (.readLoop .extensionBlock5) .done) fun _ =>
    .bind .decodeHuffDesc fun _ => .skipBits

theorem pictureHeader5 : StepBlind pictureHeader5 :=
  .bind .readBits fun _ => .bind (.raiseIf nofun) fun _ => .bind .readFrameType fun _ =>
    .bind (.ite (.bind (.update rfl) fun _ => .raise nofun) .done) fun _ => .bind .readBits fun _ => .bind .updHdr fun _ =>
    .bind (.ite (.bind (.onError .gopHeader rfl) fun _ => .updHdr) .done) fun _ => .bind (.look rfl) fun _ =>
    .bind (.ite (.bind (.update rfl) fun _ => .raise nofun) .done) fun _ =>
    .bind (.ite .done .pictureFields5) fun _ => .alignBits

theorem pictureHeader : StepBlind pictureHeader :=
  .bind (.look rfl) fun codec => by
    cases codec with
    | indeo4 => exact .pictureHeader4
    | indeo5 => exact .pictureHeader5

end StepBlind

variable {m : M α} {s s' : State} {a : α}

theorem StepBlind.ok_atStep (h : StepBlind m) (hm : m s = .ok a s') (f : FStep) (e : ErrKind) :
    m (s.atStep f e) = .ok a (s'.atStep f e) := by
  rcases h s with ⟨a', t, hrun, hstep⟩ | ⟨k, t, -, hrun, -⟩
  · cases hm.symm.trans hrun
    exact hstep f e
  · cases hm.symm.trans hrun

theorem StepBlind.error_ne_none (h : StepBlind m) {k : ErrKind} (hm : m s = .error k s') : k ≠ .none := by
  rcases h s with ⟨a', t, hrun, -⟩ | ⟨k', t, hk, hrun, -⟩
  · cases hm.symm.trans hrun
  · cases hm.symm.trans hrun
    exact hk

/-- The body of a command that completes does the same at another step of the frame. -/
theorem StepBlind.completed {i : Instr} {check : State → Option ErrKind} {body : M Unit} {v : State} (hb : StepBlind body)
    (hcheck : check s ≠ some .none) (h : command i check body s = .next v) (herr : v.err = .none) (f : FStep)
    (e : ErrKind) : check s = none ∧ body (s.atStep f e) = .ok () (v.atStep f e) := by
  obtain ⟨hnone, s', hbody, rfl⟩ := command_completed (fun _ _ => hb.error_ne_none) hcheck h herr
  exact ⟨hnone, hb.ok_atStep hbody f e⟩

end Sys2Proof.Machine
end

section
/-! SUPPORT. The picture headers part by part (45_frame_engine.md R330, R350): what is read before the frame type is acted on,
the null headers, and the INDEO5 headers without optional fields. -/

namespace Sys2Proof.Machine

open Sys2Proof.Claims

variable {s : State} {h : Header} {k m : Nat} {ft : BitVec 3}

/-- The engine with a new frame type, and the previous one (10_state.md R35). -/
def State.typed (s : State) (ft : BitVec 3) : State := { s with prevFrameType := s.frameType, frameType := ft }

theorem readFrameType_reading (hb : s.bound = true) (hs : streamHas s m) (hk : k + 3 ≤ m)
    (hft : field s k 3 = ft.toNat) : readFrameType (s.reading h k) = .ok ft ((s.typed ft).reading h (k + 3)) := by
  have hread := readField_reading (s := { s with prevFrameType := s.frameType }) (h := h) (n := 3) hb hs (by decide) hk
  have hval : field { s with prevFrameType := s.frameType } k 3 = ft.toNat := hft
  rw [hval, BitVec.ofNat_toNat, BitVec.setWidth_eq] at hread
  exact (M.bind_ok (update_apply _ _)).trans (M.bind_ok hread)

/-! ### INDEO4 (R330) -/

/-- What an INDEO4 picture header of band data goes on with. -/
def pictureRest4 : M Unit :=
  readFlag >>= fun lock => (if lock then skipBits 32 else done) >>= fun _ => configure4 >>= fun _ => pictureFields4

/-- The header fields an INDEO4 picture header writes first. -/
def Header.pictured4 (h : Header) (ft : BitVec 3) (transp : Bool) (size : Nat) : Header :=
  { h with hasBFrames := h.hasBFrames || decide (ft = 3), hasTransp := transp, dataSize := BitVec.ofNat 24 size }

/-- The bits an INDEO4 picture header begins with: the start code, the frame type, a flag and a bit that is 0. -/
structure Begins4 (s : State) (ft : BitVec 3) : Prop where
  bound : s.bound = true
  has : streamHas s 24
  code : field s 0 18 = 0x3FFF8
  type : field s 18 3 = ft.toNat
  zero : field s 22 1 = 0

theorem readOptional_coded (hb : s.bound = true) (hs : streamHas s m) {n : Nat} (hn : 0 < n) (hk : k + 1 + n ≤ m)
    (hflag : field s k 1 = 1) :
    readOptional n (s.reading h k) = .ok (field s (k + 1) n) (s.reading h (k + 1 + n)) := by
  rw [readOptional, M.bind_ok (readFlag_reading hb hs (by omega)), hflag]
  exact readBits_reading hb hs hn hk

/-- An INDEO4 picture header, up to the size field. -/
theorem pictureHeader4_begins (hbegins : Begins4 s ft) (hft : ft ≠ 7) {size len : Nat}
    (hsize : ∀ h, readOptional 24 ((s.typed ft).reading h 23) = .ok size ((s.typed ft).reading h len)) :
    pictureHeader4 s = (if 5 ≤ ft.toNat then done else pictureRest4)
      ((s.typed ft).reading (s.hdr.pictured4 ft (decide (field s 21 1 = 1)) size) len) := by
  obtain ⟨hb, hs, hcode, htype, hzero⟩ := hbegins
  have hbi (k : Nat) : (if ft = 3 then updHdr fun h => { h with hasBFrames := true } else done)
      ((s.typed ft).reading s.hdr k) =
      .ok () ((s.typed ft).reading { s.hdr with hasBFrames := s.hdr.hasBFrames || decide (ft = 3) } k) := by
    split_ifs with h3
    · rw [updHdr_reading, decide_eq_true h3, Bool.or_true]
    · rw [decide_eq_false h3, Bool.or_false]
      rfl
  have hflag (h : Header) : readFlag ((s.typed ft).reading h 21) =
      .ok (decide (field s 21 1 = 1)) ((s.typed ft).reading h 22) := readFlag_reading (s := s.typed ft) hb hs (by decide)
  have hreject (h : Header) : rejectFlag .badHeader ((s.typed ft).reading h 22) = .ok () ((s.typed ft).reading h 23) :=
    rejectFlag_reading (s := s.typed ft) hb hs (by decide) hzero _
  conv_lhs => rw [← s.reading_self]
  rw [pictureHeader4, M.bind_ok (readBits_reading hb hs (by decide) (by decide)), hcode, decide_eq_false (by decide),
    M.bind_ok (raiseIf_false _ _), M.bind_ok (readFrameType_reading hb hs (by decide) htype), decide_eq_false hft,
    M.bind_ok (raiseIf_false _ _), M.bind_ok (hbi _), M.bind_ok (hflag _), M.bind_ok (updHdr_reading _),
    M.bind_ok (hreject _), M.bind_ok (hsize _), M.bind_ok (updHdr_reading _)]
  rfl

theorem pictureHeader_indeo4 (hcodec : s.params.codec = .indeo4) : pictureHeader s = pictureHeader4 s := by
  rw [pictureHeader, M.bind_ok (look_apply _ _), hcodec]

/-- An INDEO4 null header without a size. -/
theorem pictureHeader_null4 (hcodec : s.params.codec = .indeo4) (hbegins : Begins4 s ft) (hft : ft = 5 ∨ ft = 6)
    {size len : Nat}
    (hsize : ∀ h, readOptional 24 ((s.typed ft).reading h 23) = .ok size ((s.typed ft).reading h len)) :
    pictureHeader s = .ok () ((s.typed ft).reading
      { s.hdr with hasTransp := decide (field s 21 1 = 1), dataSize := BitVec.ofNat 24 size } len) := by
  have hne : ft ≠ 7 := by rintro rfl; revert hft; decide
  have hnull : 5 ≤ ft.toNat := by rcases hft with rfl | rfl <;> decide
  have hbi : decide (ft = 3) = false := by rcases hft with rfl | rfl <;> rfl
  rw [pictureHeader_indeo4 hcodec, pictureHeader4_begins hbegins hne hsize, if_pos hnull, Header.pictured4, hbi,
    Bool.or_false]
  rfl

/-! ### INDEO5 (R350) -/

/-- What follows the frame number in an INDEO5 picture header of frame type `ft`. -/
def pictureRest5 (ft : BitVec 3) : M Unit :=
  (if ft = 0 then pictureGop5 else done) >>= fun _ =>
  look (fun s => s.hdr.isScalable) >>= fun scalable =>
  (if ft = 2 ∧ scalable = false then
    update (fun s => { s with frameType := 1 }) >>= fun _ => raise .badHeader
   else done) >>= fun _ =>
  (if ft = 4 then done else pictureFields5) >>= fun _ => alignBits

/-- The header fields after the frame number of an INDEO5 picture header. -/
def State.named5 (s : State) : Header := { s.hdr with frameNum := BitVec.ofNat 20 (field s 8 8) }

/-- An INDEO5 picture header, up to the frame number. -/
theorem pictureHeader_begins5 (hcodec : s.params.codec = .indeo5) (hb : s.bound = true) (hs : streamHas s 16)
    (hcode : field s 0 5 = 0x1F) (htype : field s 5 3 = ft.toNat) (hft : ft.toNat < 5) :
    pictureHeader s = pictureRest5 ft ((s.typed ft).reading s.named5 16) := by
  have hnum : readBits 8 ((s.typed ft).reading s.hdr 8) = .ok (field s 8 8) ((s.typed ft).reading s.hdr 16) :=
    readBits_reading (s := s.typed ft) hb hs (by decide) (by decide)
  rw [pictureHeader, M.bind_ok (look_apply _ _), hcodec]
  conv_lhs => rw [← s.reading_self]
  simp only [pictureHeader5]
  rw [M.bind_ok (readBits_reading hb hs (by decide) (by decide)), hcode, decide_eq_false (by decide),
    M.bind_ok (raiseIf_false _ _), M.bind_ok (readFrameType_reading hb hs (by decide) htype),
    if_neg (Nat.not_le.mpr hft), M.bind_ok (done_apply _), M.bind_ok hnum, M.bind_ok (updHdr_reading _)]
  rfl

theorem pictureHeader_null5 (hcodec : s.params.codec = .indeo5) (hb : s.bound = true) (hs : streamHas s 16)
    (hcode : field s 0 5 = 0x1F) (htype : field s 5 3 = 4) (hin : within s (aligned (s.br.index + 16))) :
    pictureHeader s = .ok () ((s.typed 4).reading s.named5 (aligned (s.br.index + 16) - s.br.index)) := by
  rw [pictureHeader_begins5 (ft := 4) hcodec hb hs hcode htype (by decide)]
  exact alignBits_reading (s := s.typed 4) hb hin

/-- The register of the macroblock tables where no descriptor is coded (41_vlc.md R178, log 9). -/
def State.mbUncoded (s : State) : State :=
  { s with mbVlc := match s.params.huffNotCoded with
      | .reuse => s.mbVlc
      | .default7 => { s.mbVlc with tab := .predef .mb 7 } }

theorem decodeHuffDesc_mbUncoded (s : State) : decodeHuffDesc 16 .mb false s = .ok () s.mbUncoded := by
  unfold State.mbUncoded
  cases h : s.params.huffNotCoded with
  | reuse => exact decodeHuffDesc_reuse h
  | default7 => exact decodeHuffDesc_default7 rfl h

/-- The header fields of an INDEO5 picture without optional fields. -/
def Header.plain5 (h : Header) : Header := { h with frameFlags := 0, picHdrSize := 0, checksum := 0 }

theorem pictureFields5_reading (hb : s.bound = true) (hs : streamHas s m) (hk : k + 11 ≤ m) (hflags : field s k 8 = 0) :
    pictureFields5 (s.reading h k) = .ok () (s.mbUncoded.reading h.plain5 (k + 11)) := by
  rw [pictureFields5, M.bind_ok (readField_reading hb hs (by decide) (by omega)), hflags,
    M.bind_ok (updHdr_reading _)]
  refine (M.bind_ok (decodeHuffDesc_mbUncoded (s.reading h.plain5 (k + 8)))).trans ?_
  exact skipBits_reading (s := s.mbUncoded) hb hs (by decide) (by omega)

/-- An INDEO5 picture header of band data without optional fields, from its flag byte on. -/
theorem pictureFields5_align (hb : s.bound = true) (hs : streamHas s (k + 11)) (hflags : field s k 8 = 0)
    (hin : within s (aligned (s.br.index + (k + 11)))) :
    (pictureFields5 >>= fun _ => alignBits) (s.reading h k) =
      .ok () (s.mbUncoded.reading h.plain5 (aligned (s.br.index + (k + 11)) - s.br.index)) := by
  rw [M.bind_ok (pictureFields5_reading hb hs (Nat.le_refl _) hflags)]
  exact alignBits_reading (s := s.mbUncoded) hb hin

end Sys2Proof.Machine
end

section
/-! SUPPORT. The INDEO4 picture header of one band and one tile in each plane, with an escaped size (45_frame_engine.md R310,
R316, R317, R330). -/

namespace Sys2Proof.Machine

open Sys2Proof.Claims

variable {s u x : State} {h : Header} {k m w ht : Nat} {ft : BitVec 3} {cfg : PicConf} {bd : Fin 3 → Band}

/-! ### The configuration that is read -/

theorem readPicSize4_reading (hb : s.bound = true) (hs : streamHas s m) (hk : k + 35 ≤ m) (hescape : field s k 3 = 7) :
    readPicSize4 (s.reading h k) =
      .ok (BitVec.ofNat 16 (field s (k + 19) 16), BitVec.ofNat 16 (field s (k + 3) 16)) (s.reading h (k + 35)) := by
  rw [readPicSize4, M.bind_ok (readBits_reading hb hs (by decide) (by omega)), hescape, dif_neg (by decide),
    M.bind_ok (readField_reading hb hs (by decide) (by omega)),
    M.bind_ok (readField_reading hb hs (by decide) (by omega))]
  rfl

theorem readTileDims4_reading (hb : s.bound = true) (hs : streamHas s m) (hk : k + 1 ≤ m) (hflag : field s k 1 = 0)
    (pic : BitVec 16 × BitVec 16) :
    readTileDims4 pic (s.reading h k) = .ok pic (s.reading { h with usesTiling := false } (k + 1)) := by
  rw [readTileDims4, M.bind_ok (readFlag_reading hb hs hk), hflag]
  rfl

theorem readSubdiv_one (hb : s.bound = true) (hs : streamHas s m) (hk : k + 2 ≤ m) (hcode : field s k 2 = 3) :
    readSubdiv (s.reading h k) = .ok 1 (s.reading h (k + 2)) := by
  rw [readSubdiv, M.bind_ok (readBits_reading hb hs (by decide) hk), hcode]
  rfl

/-- The bits of a configuration with the size escape, without tiling, and with one band in each plane. -/
structure OneBandBits (s : State) (k : Nat) : Prop where
  size : field s k 3 = 7
  tiling : field s (k + 35) 1 = 0
  chroma : field s (k + 36) 2 = 0
  lumaBands : field s (k + 38) 2 = 3
  chromaBands : field s (k + 40) 2 = 3

theorem readConfig4_reading (hb : s.bound = true) (hs : streamHas s m) (hk : k + 42 ≤ m) (hbits : OneBandBits s k) :
    readConfig4 (s.reading h k) = .ok (escapeConfig5 (field s (k + 19) 16) (field s (k + 3) 16))
      (s.reading { h with usesTiling := false } (k + 42)) := by
  obtain ⟨hsize, htiling, hchroma, hluma, hchromaBands⟩ := hbits
  rw [readConfig4, M.bind_ok (readPicSize4_reading hb hs (by omega) hsize),
    M.bind_ok (readTileDims4_reading hb hs (by omega) htiling _),
    M.bind_ok (readBits_reading hb hs (by decide) (by omega)), hchroma, decide_eq_false (by decide),
    M.bind_ok (raiseIf_false _ _), M.bind_ok (readSubdiv_one hb hs (by omega) hluma), if_pos (by decide),
    M.bind_ok (readSubdiv_one hb hs (by omega) hchromaBands)]
  simp only [quarter_ofNat (field_lt s (k + 19) 16), quarter_ofNat (field_lt s (k + 3) 16)]
  rfl

/-! ### Planes and tiles -/

theorem differs_iff {a b : PicConf} : differs a b = true ↔ a ≠ b := by
  cases a
  cases b
  simp only [differs, Bool.or_eq_true, decide_eq_true_eq, ne_eq, PicConf.mk.injEq]
  tauto

/-- The planes are those of the configuration: cached, or newly allocated (R310). -/
def Configured (s : State) (cfg : PicConf) (u : State) : Prop :=
  s.picConf = cfg ∧ s.alloc = .allocated ∧ u = s ∨
  s.picConf ≠ cfg ∧ ∃ v, completes [.initplanes]
      { s with opr := { s.opr with cfg := cfg }, hdr := { s.hdr with isScalable := false } } v ∧
    u = { s with planes := v.planes, mem := v.mem, picConf := cfg, alloc := .allocated }

theorem Configured.ready (hu : Configured s cfg u) : u.picConf = cfg ∧ u.alloc = .allocated ∧ u.br = s.br ∧ u.hdr = s.hdr ∧
    u.params = s.params ∧ u.frameType = s.frameType := by
  rcases hu with ⟨hconf, halloc, rfl⟩ | ⟨-, v, -, rfl⟩
  · exact ⟨hconf, halloc, rfl, rfl, rfl, rfl⟩
  · exact ⟨rfl, rfl, rfl, rfl, rfl, rfl⟩

theorem exec_initplanes_completed {v : State} (hv : completes [.initplanes] s v) :
    configFits s.opr.cfg = true ∧ v = (s.allocate s.opr.cfg).complete := by
  obtain ⟨t, hexec, herr, rfl⟩ := hv
  obtain ⟨-, s', hrun, rfl⟩ :=
    command_completed (fun k s' => StepBlind.initPlanes.error_ne_none (s' := s')) (check := noCheck) nofun hexec herr
  rcases initPlanes_cases s.opr.cfg s with ⟨hfit, hok⟩ | ⟨-, hraise⟩
  · cases hrun.symm.trans hok
    exact ⟨hfit, rfl⟩
  · cases hrun.symm.trans hraise

/-- The planes of a header that is being read, of a stream that is not scalable. -/
theorem reallocate_reading (hu : Configured s cfg u) (hscalable : h.isScalable = false) :
    (if differs cfg s.picConf then reallocate cfg else done) ((s.typed ft).reading h k) =
      .ok () ((u.typed ft).reading h k) := by
  rcases hu with ⟨hconf, -, rfl⟩ | ⟨hconf, v, hv, rfl⟩
  · rw [hconf, differs_self]
    rfl
  · obtain ⟨hfit, rfl⟩ := exec_initplanes_completed hv
    have hinit (x : State) : initPlanes cfg x = .ok () (x.allocate cfg) := if_pos hfit
    rw [if_pos (differs_iff.mpr hconf.symm), reallocate]
    refine (M.bind_ok (hinit _)).trans ?_
    refine congrArg (EStateM.Result.ok ()) ?_
    unfold State.allocate
    rw [show ((s.typed ft).reading h k).hdr.isScalable = false from hscalable]
    rfl

theorem setDefaultSizes_one (hbands : ∀ p : Fin 3, x.planes[p].bands = [bd p]) :
    x.setDefaultSizes = x.withFirst fun p =>
      { bd p with mbSize := mbSize4 x.hdr.isScalable p, blkSize := blkSize4 p } := by
  have hplanes : x.setDefaultSizes.planes = (x.withFirst fun p =>
      { bd p with mbSize := mbSize4 x.hdr.isScalable p, blkSize := blkSize4 p }).planes :=
    Vector.ext fun i hi => by
      have hold : x.planes[i].bands = [bd ⟨i, hi⟩] := hbands ⟨i, hi⟩
      refine Eq.trans ?_ (State.withFirst_plane_one (p := ⟨i, hi⟩) hold _).symm
      simp [State.setDefaultSizes, hold]
  show { x with planes := x.setDefaultSizes.planes } = _
  rw [hplanes]
  rfl

/-- The macroblock size of the one band of plane `p`, and its block size. -/
def Band.defaultSized (bd : Band) (p : Fin 3) : Band :=
  { bd with mbSize := if p = 0 then 16 else 4, blkSize := if p = 0 then 8 else 4 }

theorem Band.defaultSized_eq (bd : Band) (p : Fin 3) :
    { bd with mbSize := mbSize4 false p, blkSize := blkSize4 p } = bd.defaultSized p := by
  fin_cases p <;> rfl

theorem Band.defaultSized_mbSize_ne (bd : Band) (p : Fin 3) : (bd.defaultSized p).mbSize ≠ 0 := by
  show (if p = 0 then 16 else 4) ≠ 0
  split_ifs <;> decide

/-- The bands before and after INITTILES of the picture's tile size. -/
structure OneTileEach (bd : Fin 3 → Band) (w ht : Nat) : Prop where
  fits : ∀ p : Fin 3, ((bd p).defaultSized p).FitsTile (planeTileDim p w) (planeTileDim p ht)
  count : ∀ p, ((bd p).defaultSized p).mbCount = ((bd 0).defaultSized 0).mbCount

/-- The engine whose bands have their default sizes and their tile. -/
def State.withTiles (s : State) (bd : Fin 3 → Band) : State :=
  s.withFirst fun p => ((bd p).defaultSized p).tiled (tileRef p)

theorem configure4_reading (hb : s.bound = true) (hs : streamHas s m) (hk : 67 ≤ m) (hbits : OneBandBits s 25)
    (hw : field s 44 16 = w) (hh : field s 28 16 = ht) (hu : Configured s (escapeConfig5 w ht) u)
    (hbands : ∀ p : Fin 3, u.planes[p].bands = [bd p]) (hone : OneTileEach bd w ht) :
    configure4 ((s.typed ft).reading h 25) =
      .ok () (((u.withTiles bd).typed ft).reading { h with usesTiling := false, isScalable := false } 67) := by
  obtain ⟨hconf, halloc, hbr, -⟩ := hu.ready
  set h' : Header := { h with usesTiling := false, isScalable := false } with hh'
  have hread : readConfig4 ((s.typed ft).reading h 25) =
      .ok (escapeConfig5 w ht) ((s.typed ft).reading { h with usesTiling := false } 67) := by
    rw [← hw, ← hh]
    exact readConfig4_reading (s := s.typed ft) hb hs hk
      ⟨hbits.size, hbits.tiling, hbits.chroma, hbits.lumaBands, hbits.chromaBands⟩
  have hwlt : w < 2 ^ 16 := hw ▸ field_lt s 44 16
  have hhlt : ht < 2 ^ 16 := hh ▸ field_lt s 28 16
  have hsizes : ((u.typed ft).reading h' 67).setDefaultSizes =
      ((u.withFirst fun p => (bd p).defaultSized p).typed ft).reading h' 67 := by
    rw [setDefaultSizes_one (x := (u.typed ft).reading h' 67) hbands]
    simp only [show ((u.typed ft).reading h' 67).hdr.isScalable = false from rfl, Band.defaultSized_eq]
    rfl
  have htiles : initTiles w ht (((u.withFirst fun p => (bd p).defaultSized p).typed ft).reading h' 67) =
      .ok () (((u.withTiles bd).typed ft).reading h' 67) :=
    initTiles_one (s := (u.typed ft).reading h' 67) (fun p => by
      rw [show ((u.typed ft).reading h' 67).planes = u.planes from rfl, hbands]
      rfl) hone.fits hone.count
  rw [configure4, M.bind_ok hread, M.bind_ok (updHdr_reading _)]
  refine (M.bind_ok (raiseIf_false _ _)).trans ?_
  rw [M.bind_ok (look_apply _ _)]
  refine (M.bind_ok (reallocate_reading (ft := ft) (k := 67) (h := h') hu rfl)).trans ?_
  rw [M.bind_ok (update_apply _ _), hsizes, M.bind_ok (look_apply _ _)]
  refine (sub_ok (orBadState_eq_none.mpr (decide_eq_true halloc))).trans ?_
  rw [show ((((u.withFirst fun p => (bd p).defaultSized p).typed ft).reading h' 67).picConf) = escapeConfig5 w ht from hconf,
    show (escapeConfig5 w ht).tileWidth.toNat = w from (BitVec.toNat_ofNat ..).trans (Nat.mod_eq_of_lt hwlt),
    show (escapeConfig5 w ht).tileHeight.toNat = ht from (BitVec.toNat_ofNat ..).trans (Nat.mod_eq_of_lt hhlt)]
  exact htiles

/-! ### The fields that follow -/

/-- The bits of the fields after the configuration, without optional fields. -/
structure PlainBits (s : State) (k : Nat) : Prop where
  number : field s k 1 = 0
  estimate : field s (k + 1) 1 = 0
  mbTable : field s (k + 2) 1 = 0
  blkTable : field s (k + 3) 1 = 0
  rvmap : field s (k + 4) 1 = 0
  unknown : field s (k + 12) 1 = 0
  checksum : field s (k + 13) 1 = 0
  extension : field s (k + 14) 1 = 0

/-- The header fields after an INDEO4 configuration without optional fields. -/
def Header.plain4 (h : Header) (imf inq : Bool) (quant : BitVec 5) : Header :=
  { h with
    frameNum := 0, rvmapSel := 8, inImf := imf, inQ := inq, picGlobQuant := quant, unknown1 := 0, checksum := 0 }

/-- A header extension of no bytes. -/
theorem readLoop_extensionByte4_reading (hb : s.bound = true) (hs : streamHas s m) (hk : k + 1 ≤ m)
    (hflag : field s k 1 = 0) : readLoop extensionByte4 (s.reading h k) = .ok () (s.reading h (k + 1)) := by
  have hend : extensionByte4 (s.reading h k) = .ok false (s.reading h (k + 1)) := by
    rw [extensionByte4, M.bind_ok (readFlag_reading hb hs hk), hflag]
    rfl
  rw [readLoop, State.loopFuel, repeatWhile, M.bind_ok hend]
  rfl

theorem pictureFields4_reading (hb : s.bound = true) (hs : streamHas s (k + 16))
    (hreuse : s.params.huffNotCoded = .reuse) (hbits : PlainBits s k) (hin : within s (aligned (s.br.index + (k + 16)))) :
    pictureFields4 (s.reading h k) = .ok () (s.reading
      (h.plain4 (decide (field s (k + 5) 1 = 1)) (decide (field s (k + 6) 1 = 1)) (BitVec.ofNat 5 (field s (k + 7) 5)))
      (aligned (s.br.index + (k + 16)) - s.br.index)) := by
  obtain ⟨hnumber, hestimate, hmb, hblk, hrvmap, hunknown, hchecksum, hextension⟩ := hbits
  have htable (t : Nat) (kind : VlcKind) (h : Header) (j : Nat) :
      decodeHuffDesc t kind false (s.reading h j) = .ok () (s.reading h j) := decodeHuffDesc_reuse hreuse
  have hsel (h : Header) : readRvmapSel4 (s.reading h (k + 4)) = .ok 8 (s.reading h (k + 5)) := by
    rw [readRvmapSel4, M.bind_ok (readFlag_reading hb hs (by omega)), hrvmap]
    rfl
  rw [pictureFields4, M.bind_ok (readOptional_reading hb hs (by omega) hnumber), M.bind_ok (updHdr_reading _),
    M.bind_ok (readFlag_reading hb hs (by omega)), hestimate]
  refine (M.bind_ok (done_apply _)).trans ?_
  rw [M.bind_ok (readFlag_reading hb hs (by omega)), hmb]
  refine (M.bind_ok (htable ..)).trans ?_
  rw [M.bind_ok (readFlag_reading hb hs (by omega)), hblk]
  refine (M.bind_ok (htable ..)).trans ?_
  rw [M.bind_ok (hsel _), M.bind_ok (updHdr_reading _), M.bind_ok (readFlag_reading hb hs (by omega)),
    M.bind_ok (updHdr_reading _), M.bind_ok (readFlag_reading hb hs (by omega)), M.bind_ok (updHdr_reading _),
    M.bind_ok (readField_reading hb hs (by decide) (by omega)), M.bind_ok (updHdr_reading _),
    M.bind_ok (readOptional_reading hb hs (by omega) hunknown), M.bind_ok (updHdr_reading _),
    M.bind_ok (readOptional_reading hb hs (by omega) hchecksum), M.bind_ok (updHdr_reading _),
    M.bind_ok (readLoop_extensionByte4_reading hb hs (by omega) hextension),
    M.bind_ok (readBits_reading hb hs (by decide) (by omega))]
  exact alignBits_reading hb hin

end Sys2Proof.Machine
end

section
/-! SUPPORT. PICHDR as a command (45_frame_engine.md R330, R350). -/

namespace Sys2Proof.Machine

open Sys2Proof.Claims

variable {s t g : State} {e : ErrKind}

theorem exec_pichdr_ok (hb : s.bound = true) (h : pictureHeader s = .ok () t) : exec .pichdr s = .next t.complete :=
  exec_reader_ok rfl rfl hb h

theorem exec_pichdr_raises (hb : s.bound = true) (h : pictureHeader s = .error e t) :
    exec .pichdr s = .next (t.raised e) :=
  command_raises rfl (needStream_of_bound hb) h

/-- GOPHDR completes without an error, or raises one. -/
theorem exec_gophdr_cases (hb : s.bound = true) (h : exec .gophdr s = .next g) :
    (g.err = .none ∧ ∃ t, gopHeader s = .ok () t ∧ g = t.complete) ∨
    (g.err ≠ .none ∧ ∃ e t, gopHeader s = .error e t ∧ g = t.raised e) := by
  cases hrun : gopHeader s with
  | ok a t =>
    have hexec : exec .gophdr s = .next t.complete := exec_reader_ok rfl rfl hb hrun
    cases h.symm.trans hexec
    exact .inl ⟨rfl, t, rfl, rfl⟩
  | error e t =>
    have hexec : exec .gophdr s = .next (t.raised e) := command_raises rfl (needStream_of_bound hb) hrun
    cases h.symm.trans hexec
    exact .inr ⟨StepBlind.gopHeader.error_ne_none hrun, e, t, rfl, rfl⟩

/-- The GOP header of an INTRA frame raises: the frame has no valid GOP (R350). -/
theorem pictureRest5_gop_error (h : gopHeader s = .error e t) :
    pictureRest5 0 s = .error e { t with hdr := { t.hdr with gopInvalid := true } } := by
  rw [pictureRest5, if_pos rfl]
  refine M.bind_error (M.bind_error ?_)
  rw [onError, h]

theorem pictureRest5_gop_ok (h : gopHeader s = .ok () t) :
    pictureRest5 0 s =
      (pictureFields5 >>= fun _ => alignBits) { t with hdr := { t.hdr with gopInvalid := false } } := by
  have hgop : pictureGop5 s = .ok () { t with hdr := { t.hdr with gopInvalid := false } } := M.bind_ok (onError_ok h)
  rw [pictureRest5, if_pos rfl, M.bind_ok hgop]
  rfl

/-- A frame of another type has no GOP header; INTER_SCAL needs a scalable stream. -/
theorem pictureRest5_inter {ft : BitVec 3} (hft : ft = 1 ∨ ft = 3 ∨ ft = 2 ∧ s.hdr.isScalable = true) :
    pictureRest5 ft s = (pictureFields5 >>= fun _ => alignBits) s := by
  have hgop : ft ≠ 0 := by rcases hft with rfl | rfl | ⟨rfl, -⟩ <;> decide
  have hnull : ft ≠ 4 := by rcases hft with rfl | rfl | ⟨rfl, -⟩ <;> decide
  have hscalable : ¬(ft = 2 ∧ s.hdr.isScalable = false) := by
    rcases hft with rfl | rfl | ⟨rfl, h⟩
    · exact fun h => absurd h.1 (by decide)
    · exact fun h => absurd h.1 (by decide)
    · simp [h]
  rw [pictureRest5, if_neg hgop, M.bind_ok (done_apply _), M.bind_ok (look_apply _ _), if_neg hscalable,
    M.bind_ok (done_apply _), if_neg hnull]

theorem pictureRest5_refused (h : s.hdr.isScalable = false) :
    pictureRest5 2 s = .error .badHeader { s with frameType := 1 } := by
  rw [pictureRest5, if_neg (by decide), M.bind_ok (done_apply _), M.bind_ok (look_apply _ _), if_pos ⟨rfl, h⟩]
  rfl

/-- A header that ends at the next byte boundary. -/
theorem State.reading_aligned {x : State} {b : BitReader} (hx : x.br = b) (h : Header) (k : Nat) :
    x.reading h (aligned (b.index + k) - b.index) = { x with hdr := h, br := { b with index := aligned (b.index + k) } } := by
  subst hx
  rw [State.reading, add_aligned_sub]
  rfl

/-- The picture header of an INDEO5 frame without optional fields completes. -/
theorem complete_mbUncoded_reading (s : State) (h : Header) (k : Nat) :
    (s.mbUncoded.reading h (aligned (s.br.index + k) - s.br.index)).complete = { s with
      br := atBit s (aligned (s.br.index + k)), err := .none, hdr := h
      mbVlc := match s.params.huffNotCoded with
        | .reuse => s.mbVlc
        | .default7 => { s.mbVlc with tab := .predef .mb 7 } } := by
  rw [State.reading_aligned (x := s.mbUncoded) (b := s.br) rfl]
  rfl

/-- The fields after the configuration are the same bits whether or not the planes are new. -/
theorem Configured.pictureFields4 {u : State} {cfg : PicConf} {ft : BitVec 3} {h : Header} {bd : Fin 3 → Band}
    (hu : Configured s cfg u) (hb : s.bound = true) (hs : streamHas s 83) (hreuse : s.params.huffNotCoded = .reuse)
    (hbits : PlainBits s 67) (hin : within s (aligned (s.br.index + 83))) :
    pictureFields4 (((u.withTiles bd).typed ft).reading h 67) = .ok () (((u.withTiles bd).typed ft).reading
      (h.plain4 (decide (field s 72 1 = 1)) (decide (field s 73 1 = 1)) (BitVec.ofNat 5 (field s 74 5)))
      (aligned (s.br.index + 83) - s.br.index)) := by
  obtain ⟨hnumber, hestimate, hmb, hblk, hrvmap, hunknown, hchecksum, hextension⟩ := hbits
  rcases hu with ⟨-, -, rfl⟩ | ⟨-, v, -, rfl⟩ <;>
    exact pictureFields4_reading hb hs hreuse
      ⟨hnumber, hestimate, hmb, hblk, hrvmap, hunknown, hchecksum, hextension⟩ hin

/-- What a picture header leaves, with its cursor at a byte boundary. -/
theorem Configured.complete_reading {u : State} {cfg : PicConf} {ft : BitVec 3} {h : Header} {bd : Fin 3 → Band} {k : Nat}
    (hu : Configured s cfg u) :
    (((u.withTiles bd).typed ft).reading h (aligned (s.br.index + k) - s.br.index)).complete = { u.withTiles bd with
      br := atBit s (aligned (s.br.index + k)), prevFrameType := s.frameType, frameType := ft, err := .none, hdr := h } := by
  obtain ⟨-, -, hbr, -, -, htype⟩ := hu.ready
  have htyped : (u.withTiles bd).typed ft = { u.withTiles bd with prevFrameType := s.frameType, frameType := ft } := by
    rw [State.typed, show (u.withTiles bd).frameType = s.frameType from htype]
  rw [htyped, State.reading_aligned (x := { u.withTiles bd with prevFrameType := s.frameType, frameType := ft }) hbr]
  rfl

end Sys2Proof.Machine

namespace Sys2Proof.Proofs.FrameFamily

open Sys2Proof.Machine Sys2Proof.Claims

variable {s : State} {ft : BitVec 3}

theorem pichdr_null4 (hcodec : s.params.codec = .indeo4) (hft : ft = 5 ∨ ft = 6) (hbegins : Begins4 s ft) {size len : Nat}
    (hsize : ∀ h, readOptional 24 ((s.typed ft).reading h 23) = .ok size ((s.typed ft).reading h len)) :
    exec .pichdr s = .next { s with
      br := atBit s (s.br.index + len), prevFrameType := s.frameType, frameType := ft, err := .none
      hdr := { s.hdr with hasTransp := decide (field s 21 1 = 1), dataSize := BitVec.ofNat 24 size } } :=
  exec_pichdr_ok hbegins.bound (pictureHeader_null4 hcodec hbegins hft hsize)

section indeo5

variable (hb : s.bound = true) (hcodec : s.params.codec = .indeo5) (hs : streamHas s 16) (hcode : field s 0 5 = 0x1F)
include hb hcodec hs hcode

theorem pichdr_null5 (htype : field s 5 3 = 4) (hin : within s (aligned (s.br.index + 16))) :
    exec .pichdr s = .next { s with
      br := atBit s (aligned (s.br.index + 16)), prevFrameType := s.frameType, frameType := 4, err := .none
      hdr := s.named5 } := by
  rw [exec_pichdr_ok hb (pictureHeader_null5 hcodec hb hs hcode htype hin), State.reading_aligned (x := s.typed 4) (b := s.br) rfl]
  rfl

theorem pichdr_inter5 (hft : ft = 1 ∨ ft = 3 ∨ ft = 2 ∧ s.hdr.isScalable = true) (htype : field s 5 3 = ft.toNat)
    (hs' : streamHas s 27) (hflags : field s 16 8 = 0) (hin : within s (aligned (s.br.index + 27))) :
    exec .pichdr s = .next { s with
      br := atBit s (aligned (s.br.index + 27)), prevFrameType := s.frameType, frameType := ft, err := .none
      hdr := s.named5.plain5
      mbVlc := match s.params.huffNotCoded with
        | .reuse => s.mbVlc
        | .default7 => { s.mbVlc with tab := .predef .mb 7 } } := by
  have hsmall : ft.toNat < 5 := by rcases hft with rfl | rfl | ⟨rfl, -⟩ <;> decide
  have hfields := pictureFields5_align (s := s.typed ft) (h := s.named5) (k := 16) hb hs' hflags hin
  have hrun : pictureHeader s = .ok () ((s.typed ft).mbUncoded.reading s.named5.plain5
      (aligned (s.br.index + 27) - s.br.index)) :=
    (pictureHeader_begins5 hcodec hb hs hcode htype hsmall).trans ((pictureRest5_inter (s := (s.typed ft).reading s.named5 16) hft).trans hfields)
  exact (exec_pichdr_ok hb hrun).trans (congrArg _ (complete_mbUncoded_reading (s.typed ft) _ 27))

theorem pichdr_refused5 (htype : field s 5 3 = 2) (hscalable : s.hdr.isScalable = false) :
    exec .pichdr s = .next (State.raised .badHeader { s with
      br := atBit s (s.br.index + 16), prevFrameType := s.frameType, frameType := 1, hdr := s.named5 }) :=
  exec_pichdr_raises hb <| (pictureHeader_begins5 (ft := 2) hcodec hb hs hcode htype (by decide)).trans
    (pictureRest5_refused hscalable)

/-- PICHDR of an INTRA frame, by what GOPHDR leaves. -/
theorem pichdr_intra5 {g : State} (htype : field s 5 3 = 0)
    (hgop : exec .gophdr { s with
      br := atBit s (s.br.index + 16), prevFrameType := s.frameType, frameType := 0, hdr := s.named5 } = .next g) :
    (g.err ≠ .none → exec .pichdr s = .next { g with hdr := { g.hdr with gopInvalid := true } }) ∧
    (g.err = .none → s.params.huffNotCoded = .reuse → streamHas g 11 → field g 0 8 = 0 →
      within g (aligned (g.br.index + 11)) →
      exec .pichdr s = .next { g with
        br := atBit g (aligned (g.br.index + 11))
        hdr := { g.hdr with gopInvalid := false, frameFlags := 0, picHdrSize := 0, checksum := 0 } }) := by
  have hrest : pictureHeader s = pictureRest5 0 ((s.typed 0).reading s.named5 16) :=
    pictureHeader_begins5 hcodec hb hs hcode htype (by decide)
  rcases exec_gophdr_cases (s := (s.typed 0).reading s.named5 16) hb hgop with
    ⟨herr, t, hrun, rfl⟩ | ⟨herr, e, t, hrun, rfl⟩
  · refine ⟨fun h => absurd herr h, fun _ hreuse hs' hflags hin => ?_⟩
    have hwrites := (Limited.gopHeader (w := { cursor := true, arena := true }) rfl rfl _).1 _ _ hrun
    have hbound : t.bound = true := hwrites.bound.trans hb
    have hpolicy : t.params.huffNotCoded = .reuse := (congrArg Params.huffNotCoded hwrites.params).trans hreuse
    set valid : State := { t with hdr := { t.hdr with gopInvalid := false } } with hvalid
    have hfields := pictureFields5_align (s := valid) (h := valid.hdr) (k := 0) hbound hs' hflags hin
    have hheader := exec_pichdr_ok hb (hrest.trans ((pictureRest5_gop_ok hrun).trans hfields))
    rw [hheader, complete_mbUncoded_reading valid, show valid.params.huffNotCoded = .reuse from hpolicy]
    rfl
  · exact ⟨fun _ => exec_pichdr_raises hb (hrest.trans (pictureRest5_gop_error hrun)), fun h => absurd h herr⟩

end indeo5

/-- PICHDR of INDEO4 band data: the configuration's planes and tiles, then the fields without optional ones. -/
theorem pichdr_data4 {u : State} {w h : Nat} {bd : Fin 3 → Band} (hcodec : s.params.codec = .indeo4) (hft : ft.toNat < 5)
    (hs : streamHas s 83) (hbegins : Begins4 s ft) (hsize : field s 23 1 = 0) (hlock : field s 24 1 = 0)
    (hconfig : OneBandBits s 25) (hplain : PlainBits s 67) (hw : field s 44 16 = w) (hh : field s 28 16 = h)
    (hreuse : s.params.huffNotCoded = .reuse) (hin : within s (aligned (s.br.index + 83)))
    (hu : Configured s (escapeConfig5 w h) u) (hbands : ∀ p : Fin 3, u.planes[p].bands = [bd p])
    (hone : OneTileEach bd w h) :
    exec .pichdr s = .next { u.withTiles bd with
      br := atBit s (aligned (s.br.index + 83)), prevFrameType := s.frameType, frameType := ft, err := .none
      hdr := Header.plain4
        { s.hdr.pictured4 ft (decide (field s 21 1 = 1)) 0 with usesTiling := false, isScalable := false }
        (decide (field s 72 1 = 1)) (decide (field s 73 1 = 1)) (BitVec.ofNat 5 (field s 74 5)) } := by
  obtain ⟨-, -, hbr, hhdr, hparams, htype⟩ := hu.ready
  have hb := hbegins.bound
  have hne : ft ≠ 7 := by rintro rfl; revert hft; decide
  set hdr : Header := s.hdr.pictured4 ft (decide (field s 21 1 = 1)) 0
  have hhead : pictureHeader s = pictureRest4 ((s.typed ft).reading hdr 24) := by
    rw [pictureHeader_indeo4 hcodec, pictureHeader4_begins hbegins hne
      (fun h => readOptional_reading (s := s.typed ft) hb hbegins.has (by decide) hsize),
      if_neg (Nat.not_le.mpr hft)]
  have hconf := configure4_reading (ft := ft) (h := hdr) hb hs (by decide) hconfig hw hh hu hbands hone
  have hlocked : readFlag ((s.typed ft).reading hdr 24) = .ok false ((s.typed ft).reading hdr 25) := by
    rw [readFlag_reading (s := s.typed ft) hb hs (by decide)]
    exact congrArg (fun x => EStateM.Result.ok (decide (x = 1)) ((s.typed ft).reading hdr 25)) hlock
  have hrest : pictureRest4 ((s.typed ft).reading hdr 24) =
      pictureFields4 (((u.withTiles bd).typed ft).reading { hdr with usesTiling := false, isScalable := false } 67) := by
    rw [pictureRest4, M.bind_ok hlocked]
    exact (M.bind_ok (done_apply _)).trans (M.bind_ok hconf)
  rw [exec_pichdr_ok hb (hhead.trans (hrest.trans (hu.pictureFields4 hb hs hreuse hplain hin))), hu.complete_reading]

/-- Settles O43: each header is read field by field, and acts on what it has read. -/
theorem picHeaderCompletes : Obligations.PicHeaderCompletes := by
  intro s hb
  refine ⟨fun ft hcodec hft hs hcode htype hzero => ?_, fun hcodec hs hcode => ?_, ?_⟩
  · have hbegins : Begins4 s ft := ⟨hb, hs, hcode, htype, hzero⟩
    exact ⟨fun hflag => pichdr_null4 hcodec hft hbegins fun h =>
        readOptional_reading (s := s.typed ft) hb hs (by decide) hflag,
      fun hflag hs' => pichdr_null4 hcodec hft hbegins fun h =>
        readOptional_coded (s := s.typed ft) hb hs' (by decide) (by decide) hflag⟩
  · exact ⟨fun htype hin => pichdr_null5 hb hcodec hs hcode htype hin,
      fun ft hft htype hs' hflags hin => pichdr_inter5 hb hcodec hs hcode hft htype hs' hflags hin,
      fun htype hscalable => pichdr_refused5 hb hcodec hs hcode htype hscalable,
      fun g htype hgop => pichdr_intra5 hb hcodec hs hcode htype hgop⟩
  · intro ft u bd hcodec hft hs hcode htype hzero hsize hlock hescape htiling hchroma hluma hchromaBands hnumber hestimate
      hmb hblk hreuse hrvmap hunknown hchecksum hextension hin w h cfg hu hbands dim mbs count hfits
    have hdim (p : Fin 3) (d : Nat) : dim p d = planeTileDim p d := by fin_cases p <;> rfl
    have hone : OneTileEach bd w h :=
      { fits := fun p => by
          obtain ⟨hw, hwle, hh, hhle, -⟩ := hfits p
          exact ⟨hw, hdim p w ▸ hwle, hh, hdim p h ▸ hhle, (bd p).defaultSized_mbSize_ne p⟩
        count := fun p => let ⟨_, _, _, _, heq⟩ := hfits p; heq }
    have hexec := pichdr_data4 (bd := bd) hcodec hft hs ⟨hb, fun k hk => hs k (by omega), hcode, htype, hzero⟩ hsize hlock
      ⟨hescape, htiling, hchroma, hluma, hchromaBands⟩
      ⟨hnumber, hestimate, hmb, hblk, hrvmap, hunknown, hchecksum, hextension⟩ rfl rfl hreuse hin hu hbands hone
    exact ⟨_, hexec, fun p => State.withFirst_plane_one (hbands p) _, rfl⟩

end Sys2Proof.Proofs.FrameFamily
end

section
/-! SUPPORT. The bands of a frame leave it to the headers before them whether the stream is scalable (45_frame_engine.md R330,
R371): one lemma for each program of the band layer, along its steps. -/

namespace Sys2Proof.Machine

variable {α β : Type}

/-- The program leaves `is_scalable` as it is. -/
abbrev KeepsScalable (m : M α) : Prop := Leads (fun s t => t.hdr.isScalable = s.hdr.isScalable) m

namespace KeepsScalable

theorem chains : Chains fun s t : State => t.hdr.isScalable = s.hdr.isScalable := Chains.same fun s => s.hdr.isScalable

/-! ### Putting programs together -/

theorem bind {m : M α} {f : α → M β} (hm : KeepsScalable m) (hf : ∀ a, KeepsScalable (f a)) : KeepsScalable (m >>= f) :=
  leads_bind chains hm hf

theorem ite {c : Prop} [Decidable c] {m n : M α} (hm : KeepsScalable m) (hn : KeepsScalable n) :
    KeepsScalable (if c then m else n) := by
  split
  · exact hm
  · exact hn

theorem dite {c : Prop} [Decidable c] {m : c → M α} {n : ¬c → M α} (hm : ∀ h, KeepsScalable (m h))
    (hn : ∀ h, KeepsScalable (n h)) : KeepsScalable (if h : c then m h else n h) := by
  split
  · exact hm _
  · exact hn _

theorem pure {a : α} : KeepsScalable (pure a) := leads_pure chains a

theorem done : KeepsScalable done := leads_done chains

theorem raise {e : ErrKind} : KeepsScalable (raise e : M α) := leads_raise chains e

theorem raiseIf {b : Bool} {e : ErrKind} : KeepsScalable (raiseIf b e) := leads_raiseIf chains b e

theorem look {f : State → α} : KeepsScalable (look f) := leads_look chains f

theorem need {e : ErrKind} {x : Option α} : KeepsScalable (need e x) := leads_need chains e x

theorem liftExcept {x : Except ErrKind α} : KeepsScalable (liftExcept x) := leads_liftExcept chains x

theorem update {f : State → State} (hf : ∀ s, (f s).hdr.isScalable = s.hdr.isScalable := by intro; rfl) :
    KeepsScalable (update f) := leads_update hf

theorem forEach {f : α → M Unit} {l : List α} (hf : ∀ a, KeepsScalable (f a)) : KeepsScalable (forEach f l) :=
  leads_forEach chains hf l

theorem readLoop {f : M Bool} (hf : KeepsScalable f) : KeepsScalable (readLoop f) := leads_readLoop chains hf

theorem sub {check : State → Option ErrKind} {body : M Unit} (hb : KeepsScalable body) : KeepsScalable (sub check body) :=
  leads_sub chains hb

/-- A program that looks at the state it starts from. -/
theorem withState {f : State → M α} (hf : ∀ s, KeepsScalable (f s)) : KeepsScalable (fun s => f s s) := leads_withState hf

/-! ### Single steps -/

theorem updHdr {f : Header → Header} (hf : ∀ h, (f h).isScalable = h.isScalable := by intro; rfl) :
    KeepsScalable (updHdr f) := leads_update fun s => hf s.hdr

theorem updScratch {f : Scratch → Scratch} : KeepsScalable (updScratch f) := .update

theorem updBand {p b : Nat} {f : Band → Band} : KeepsScalable (updBand p b f) := .update

theorem updMb {p b t m : Nat} {f : Mb → Mb} : KeepsScalable (updMb p b t m f) := .update

theorem getBand {p b : Nat} : KeepsScalable (getBand p b) :=
  .withState (f := fun s => Machine.need _ (s.band? p b)) fun _ => .need

theorem getTile {p b t : Nat} : KeepsScalable (getTile p b t) :=
  .withState (f := fun s => Machine.need _ (s.tile? p b t)) fun _ => .need

theorem getMb {p b t m : Nat} : KeepsScalable (getMb p b t m) :=
  .withState (f := fun s => Machine.need _ (s.mb? p b t m)) fun _ => .need

theorem vlcSymbol {t : VlcTable} {depth : Nat} : KeepsScalable (vlcSymbol t depth) :=
  leads_keepingCursor (leads_vlcWalk chains (fun _ _ => rfl) (fun _ _ _ => rfl) _ _ _ _) fun _ _ h => h

theorem setHuffReg_isScalable (s : State) (t : Nat) (h : HuffTab) :
    (s.setHuffReg t h).hdr.isScalable = s.hdr.isScalable := by
  unfold State.setHuffReg
  split_ifs <;> rfl

theorem getHuffReg {t : Nat} : KeepsScalable (getHuffReg t) :=
  .withState (f := fun s => Machine.need _ (s.huffReg? t)) fun _ => .need

theorem updHuffReg {t : Nat} {f : HuffTab → HuffTab} : KeepsScalable (updHuffReg t f) :=
  .bind .getHuffReg fun _ => .update fun s => setHuffReg_isScalable s t _

theorem readBits {n : Nat} : KeepsScalable (readBits n) := leads_readBits chains n fun _ _ => rfl

theorem skipBits {n : Nat} : KeepsScalable (skipBits n) := leads_skipBits chains n fun _ _ => rfl

theorem alignBits : KeepsScalable alignBits :=
  .withState (f := fun s => Machine.skipBits s.alignGap) fun _ => .skipBits

theorem readFlag : KeepsScalable readFlag := .bind .readBits fun _ => .pure

theorem readField {n : Nat} : KeepsScalable (readField n) := .bind .readBits fun _ => .pure

theorem readVlc {t : Option VlcTable} : KeepsScalable (readVlc t) :=
  .bind .need fun _ => .bind .raiseIf fun _ => .bind .vlcSymbol fun _ => .bind .raiseIf fun _ => .pure

/-! ### Huffman descriptors and band headers -/

theorem readValues {k n : Nat} : KeepsScalable (readValues k n) := by
  induction n with
  | zero => exact .pure
  | succ n ih => exact .bind .readBits fun _ => .bind ih fun _ => .pure

theorem readDesc {n : Nat} : KeepsScalable (readDesc n) := .bind .readValues fun _ => .pure

theorem huffBuild48 {d : HuffDesc} : KeepsScalable (huffBuild48 d) := leads_of_cases fun s => by
  unfold Machine.huffBuild48 buildInto48
  cases huffBuild s.params d with
  | ok t => exact .inl ⟨_, _, rfl, rfl⟩
  | error e => exact .inr ⟨_, _, rfl, rfl⟩

theorem decodeCustom {t : Nat} : KeepsScalable (decodeCustom t) := by
  have hbuild (new : HuffDesc) : KeepsScalable (onError (Machine.huffBuild48 new) fun s => match s.huffReg? t with
      | some h => s.setHuffReg t { h with custDesc := { h.custDesc with numRows := 0 }, custTab := none }
      | none => s) := leads_onError chains huffBuild48 fun s => by
    cases s.huffReg? t with
    | some h => exact setHuffReg_isScalable s t _
    | none => rfl
  exact .bind .readBits fun _ => .bind .raiseIf fun _ => .bind .readDesc fun new => .bind .getHuffReg fun _ =>
    .bind (.ite .done <| .bind .updHuffReg fun _ => .bind (hbuild new) fun _ => .bind .look fun _ => .updHuffReg)
      fun _ => .updHuffReg

theorem decodeHuffDesc {t : Nat} {kind : VlcKind} {coded : Bool} : KeepsScalable (decodeHuffDesc t kind coded) := .ite
    (.bind .readField fun _ => .bind .updHuffReg fun _ => .ite .decodeCustom .updHuffReg)
    (.bind .look fun policy => by
      cases policy with
      | reuse => exact .done
      | default7 => exact .updHuffReg)

theorem selectTransform4 {p b id : Nat} : KeepsScalable (selectTransform4 p b id) :=
  .bind .need fun _ => .bind .getBand fun _ => .bind .raiseIf fun _ => .bind (.ite .updHdr .done) fun _ =>
    .bind .look fun _ => .bind .updBand fun _ => .raiseIf

theorem selectQuant4 {p b : Nat} : KeepsScalable (selectQuant4 p b) := .bind .look fun _ => .updBand

theorem bandSelection4 {p b : Nat} : KeepsScalable (bandSelection4 p b) :=
  .bind .readBits fun _ => .bind .selectTransform4 fun _ => .bind .readBits fun _ => .bind .getBand fun _ =>
    .bind .raiseIf fun _ => .bind .raiseIf fun _ => .bind .look fun _ => .bind .updBand fun _ =>
    .bind .readField fun _ => .bind .look fun _ => .bind .raiseIf fun _ => .updBand

theorem readCorr {p b i n : Nat} : KeepsScalable (readCorr p b i n) := by
  induction n generalizing i with
  | zero => exact .done
  | succ n ih => exact .bind .readField fun _ => .bind .updBand fun _ => ih

theorem readCorrections {p b : Nat} : KeepsScalable (readCorrections p b) :=
  .bind .readBits fun _ => .bind .updBand fun _ => .bind .look fun _ => .bind .raiseIf fun _ => .readCorr

theorem readBandRvmap {coded : Bool} : KeepsScalable (readBandRvmap coded) :=
  .ite (.bind .readBits fun _ => .pure) .pure

theorem readBandChecksum {p b : Nat} : KeepsScalable (readBandChecksum p b) :=
  .bind .readFlag fun _ => .bind .updBand fun _ => .ite (.bind .readField fun _ => .updBand) .done

theorem checkSelection4 {p b : Nat} : KeepsScalable (checkSelection4 p b) :=
  .bind .getBand fun _ => .bind .look fun _ => .bind (.ite (.bind .updBand fun _ => .raise) .done) fun _ =>
    .bind .raiseIf fun _ => .raiseIf

theorem bandFields4 {p b : Nat} : KeepsScalable (bandFields4 p b) :=
  .bind .getBand fun _ => .bind .readFlag fun _ => .bind (.ite .skipBits .done) fun _ =>
    .bind .readBits fun _ => .bind .raiseIf fun _ => .bind .updBand fun _ => .bind (.ite .updHdr .done) fun _ =>
    .bind .readBandChecksum fun _ => .bind .readBits fun _ => .bind .raiseIf fun _ => .bind .updBand fun _ =>
    .bind .readFlag fun _ => .bind .updBand fun _ => .bind .readFlag fun _ => .bind .updBand fun _ =>
    .bind .readField fun _ => .bind .updBand fun _ => .bind .readFlag fun _ => .bind .look fun _ =>
    .bind .getBand fun _ => .bind (.ite .bandSelection4 .raiseIf) fun _ => .bind .checkSelection4 fun _ =>
    .bind .readFlag fun _ => .bind (.ite .decodeHuffDesc .updBand) fun _ =>
    .bind .readFlag fun _ => .bind .readBandRvmap fun _ => .bind .updBand fun _ =>
    .bind .readFlag fun _ => .ite .readCorrections .done

theorem bandHeader4 {p b : Nat} : KeepsScalable (bandHeader4 p b) :=
  .bind .readBits fun _ => .bind .raiseIf fun _ => .bind .readBits fun _ => .bind .raiseIf fun _ =>
    .bind .readFlag fun _ => .bind .updBand fun _ => .bind (.ite .done .bandFields4) fun _ =>
    .bind .selectQuant4 fun _ => .bind .alignBits fun _ => .bind .getBand fun _ => .raiseIf

theorem extensionBlock5 : KeepsScalable extensionBlock5 :=
  .bind .readBits fun _ => .bind .look fun _ => .ite .pure (.bind .skipBits fun _ => .pure)

theorem bandFields5 {p b : Nat} {f : BitVec 8} : KeepsScalable (bandFields5 p b f) :=
  .bind .look fun _ => .bind (.ite .readBits .pure) fun _ => .bind .updBand fun _ =>
    .bind (.ite .readCorrections .done) fun _ => .bind .readBandRvmap fun _ => .bind .updBand fun _ =>
    .bind .decodeHuffDesc fun _ => .bind .readBandChecksum fun _ => .bind .readField fun _ =>
    .bind .updBand fun _ =>
    .bind (.ite (.bind .alignBits fun _ => .readLoop .extensionBlock5) .done) fun _ => .alignBits

theorem bandHeader5 {p b : Nat} : KeepsScalable (bandHeader5 p b) :=
  .bind .readField fun _ => .bind .updBand fun _ => .ite .done .bandFields5

theorem bandHeader {p b : Nat} : KeepsScalable (bandHeader p b) := .bind .look fun codec => by
    cases codec with
    | indeo4 => exact .bandHeader4
    | indeo5 => exact .bandHeader5

/-! ### Predictions, transforms and blocks -/

theorem runMc {o : McOps} {n t : Nat} {delta : Bool} : KeepsScalable (runMc o n t delta) := .update

theorem runMcAvg {o : McOps} {n t t2 : Nat} {delta : Bool} : KeepsScalable (runMcAvg o n t t2 delta) := .update

theorem runInvTx {tx : InvTx} {coefs : Vector Coef 64} {flags : Vector Bool 8} {d : Dst}
    {pitch : Nat} : KeepsScalable (runInvTx tx coefs flags d pitch) :=
  .update

theorem runDcTx {tx : DcTx} {dc : Coef} {d : Dst} {pitch : Nat} : KeepsScalable (runDcTx tx dc d pitch) := .update

theorem mbCtx {bd : Band} {mb : Mb} : KeepsScalable (mbCtx bd mb) := .bind .raiseIf fun _ => .look

theorem predictSingle {o : McOps} {n t : Nat} {delta : Bool} :
    KeepsScalable (predictSingle o n t delta) := .sub .runMc

theorem predictBoth {o : McOps} {n t t2 : Nat} {delta : Bool} :
    KeepsScalable (predictBoth o n t t2 delta) := .sub .runMcAvg

theorem predictBlock {p b : Nat} {bd : Band} {c : MbCtx} {off : Nat} {delta : Bool} :
    KeepsScalable (predictBlock p b bd c off delta) :=
  .bind .look fun _ => by
    dsimp only
    cases c.t1 with
    | none =>
      cases c.t2 with
      | none => exact .done
      | some t => exact .bind .need fun _ => .predictSingle
    | some t =>
      cases c.t2 with
      | none => exact .bind .need fun _ => .predictSingle
      | some t2 => exact .bind .need fun _ => .bind .need fun _ => .predictBoth

theorem clearBlock {n : Nat} : KeepsScalable (clearBlock n) := .updScratch

theorem readSymbol {bd : Band} : KeepsScalable (readSymbol bd) := .bind .look fun _ => .readVlc

theorem runValue {bd : Band} {rv : RvMap} {sym : Nat} : KeepsScalable (runValue bd rv sym) :=
  .ite (.bind .readSymbol fun _ => .bind .readSymbol fun _ => .bind .readSymbol fun _ => .pure)
    (.dite (fun _ => .pure) fun _ => .raise)

theorem coefTurn {bd : Band} {scan : List Nat} {intra : Bool} {quant : Int} :
    KeepsScalable (coefTurn bd scan intra quant) :=
  .bind .look fun _ => .bind .readSymbol fun _ => .ite .pure <| .bind .runValue fun _ =>
    .bind .updScratch fun _ => .bind .look fun _ => .ite .pure <| .bind .liftExcept fun _ =>
    .bind .updScratch fun _ => .pure

theorem transformBlock {p b : Nat} {bd : Band} {tx : InvTx} {off : Nat} :
    KeepsScalable (transformBlock p b bd tx off) := .bind .look fun _ => .sub .runInvTx

theorem decodeBlock {p b t m blk : Nat} : KeepsScalable (decodeBlock p b t m blk) :=
  .bind .getBand fun _ => .bind .getMb fun _ => .bind .mbCtx fun _ => .bind .raiseIf fun _ => .bind .need fun _ =>
    .bind .need fun _ => .bind .clearBlock fun _ => .bind (.readLoop .coefTurn) fun _ => .bind .look fun _ =>
    .bind .raiseIf fun _ => .bind (.ite .updScratch .done) fun _ => .bind .raiseIf fun _ =>
    .bind .transformBlock fun _ => .ite .done .predictBlock

theorem fillBlock {p b t m blk : Nat} : KeepsScalable (fillBlock p b t m blk) :=
  .bind .getBand fun bd => .bind .getMb fun _ => .bind .mbCtx fun _ => .bind .raiseIf fun _ =>
    .ite (by
      cases bd.dcTransform with
      | none => exact .done
      | some tx => exact .bind .look fun _ => .sub .runDcTx) .predictBlock

theorem codedOrNot {p b t m : Nat} {mb : Mb} {blk : Nat} :
    KeepsScalable (codedOrNot p b t m mb blk) := .sub (.ite .decodeBlock .fillBlock)

theorem decodeMb {p b t m : Nat} : KeepsScalable (decodeMb p b t m) :=
  .bind .getBand fun _ => .bind .getMb fun _ => .bind .mbCtx fun _ => .forEach fun _ => .codedOrNot

theorem decodeTileBlocks {p b t : Nat} : KeepsScalable (decodeTileBlocks p b t) :=
  .bind .updScratch fun _ => .bind .getTile fun _ => .bind (.forEach fun _ => .decodeMb) fun _ => .alignBits

/-! ### Tiles and macroblocks -/

theorem refMb {tl : Tile} {r : Nat} : KeepsScalable (refMb tl r) := by
  unfold Machine.refMb
  cases tl.refTile with
  | none => exact .pure
  | some i => exact .bind .getMb fun _ => .pure

theorem emptyMb {p b t : Nat} {bd : Band} {tl : Tile} {m x y : Nat} : KeepsScalable (emptyMb p b t bd tl m x y) :=
  .bind .updMb fun _ => .bind (.ite .updMb .done) fun _ => .bind .refMb fun ref? => by
    cases ref? with
    | none => exact .pure
    | some ref =>
      exact .bind (.ite .updMb .done) fun _ => .ite
        (.bind .look fun _ => .bind .updMb fun _ => .bind .raiseIf fun _ => .pure) .pure

theorem emptyMbs {p b t : Nat} {bd : Band} {tl : Tile} {l : List (Nat × Nat × Nat)} {needMc : Bool} :
    KeepsScalable (emptyMbs p b t bd tl l needMc) := by
  induction l generalizing needMc with
  | nil => exact .pure
  | cons _ l ih => exact .bind .emptyMb fun _ => ih

theorem emptyBlock {p b : Nat} {bd : Band} {mb : Mb} {blk : Nat} :
    KeepsScalable (emptyBlock p b bd mb blk) := .bind .need fun _ => .bind .look fun _ => .predictSingle

theorem emptyPredict {p b t : Nat} {bd : Band} {m : Nat} :
    KeepsScalable (emptyPredict p b t bd m) := .bind .getMb fun _ => .forEach fun _ => .emptyBlock

theorem copyTile {p b : Nat} {bd : Band} {tl : Tile} : KeepsScalable (copyTile p b bd tl) :=
  .bind .need fun _ => .bind .look fun _ => .bind .need fun _ => .update

theorem emptyTile {p b t : Nat} : KeepsScalable (emptyTile p b t) :=
  .bind .getBand fun _ => .bind .getTile fun _ => .bind .raiseIf fun _ => .bind .emptyMbs fun _ =>
    .ite (.forEach fun _ => .emptyPredict) .copyTile

theorem tileSizeField : KeepsScalable tileSizeField :=
  .bind .readFlag fun _ => .ite (.bind .readBits fun _ => .ite .readBits .pure) .pure

theorem readTileSize : KeepsScalable readTileSize := .bind .tileSizeField fun _ => .bind .alignBits fun _ => .pure

theorem readMbSigned : KeepsScalable readMbSigned := .bind (.bind .look fun _ => .readVlc) fun _ => .pure

theorem readDeltas {pred : Int × Int} : KeepsScalable (readDeltas pred) :=
  .bind .readMbSigned fun _ => .bind .readMbSigned fun _ => .pure

theorem readQDelta {p b t m : Nat} : KeepsScalable (readQDelta p b t m) := .bind .readMbSigned fun _ => .updMb

theorem inheritVector {p b t m : Nat} {bd : Band} {ref : Mb} : KeepsScalable (inheritVector p b t m bd ref) :=
  .bind .look fun _ => .updMb

theorem ofRef {ref? : Option Mb} {f : Mb → M Unit} (hf : ∀ ref, KeepsScalable (f ref)) :
    KeepsScalable (match ref? with | some ref => f ref | none => Machine.done) := by
  cases ref? with
  | none => exact .done
  | some ref => exact hf ref

theorem emptyMbInfo {p b t m : Nat} {bd : Band} {coded : Bool} {ref? : Option Mb} :
    KeepsScalable (emptyMbInfo p b t m bd coded ref?) :=
  .bind .look fun _ => .bind .raiseIf fun _ => .bind .updMb fun _ => .bind (.ite .readQDelta .done) fun _ =>
    .bind .updMb fun _ => .ofRef fun _ => .ite .inheritVector .done

theorem mbTypeAndCbp {p b t m : Nat} {bd : Band} {readType : M (BitVec 2)}
    (hr : KeepsScalable readType) : KeepsScalable (mbTypeAndCbp p b t m bd readType) :=
  .bind hr fun _ => .bind .updMb fun _ => .bind .readBits fun _ => .updMb

theorem checkMbWindow {p b t m : Nat} {bd : Band} : KeepsScalable (checkMbWindow p b t m bd) :=
  .bind .getMb fun _ => .raiseIf

theorem mbType4 {bd : Band} {ref? : Option Mb} : KeepsScalable (mbType4 bd ref?) :=
  .ite (.bind .need fun _ => .pure) (.bind .look fun _ => .ite .pure (.bind .readBits fun _ => .pure))

theorem mbQDelta4 {p b t m : Nat} {bd : Band} {ref? : Option Mb} : KeepsScalable (mbQDelta4 p b t m bd ref?) :=
  .ite (.ofRef fun _ => .updMb) (.bind .getMb fun _ => .bind .look fun _ => .ite .readQDelta .done)

theorem decodeVectors4 {p b t m : Nat} {ty : BitVec 2} {pred : Int × Int} :
    KeepsScalable (decodeVectors4 p b t m ty pred) :=
  .bind .readDeltas fun _ => .bind .updMb fun _ =>
    .ite (.bind .readDeltas fun _ => .bind .updMb fun _ => .pure) .pure

theorem mbVectors4 {p b t m : Nat} {bd : Band} {ref? : Option Mb} {pred : Int × Int} :
    KeepsScalable (mbVectors4 p b t m bd ref? pred) :=
  .bind .getMb fun _ => .ite (.bind .updMb fun _ => .pure) <|
    .bind (.ite (.bind (.ofRef fun _ => .inheritVector) fun _ => .pure) .decodeVectors4) fun _ =>
    .bind (.ite .updMb .done) fun _ => .pure

theorem mbInfo4 {p b t : Nat} {bd : Band} {tl : Tile} {m x y : Nat} {pred : Int × Int} :
    KeepsScalable (mbInfo4 p b t bd tl m x y pred) :=
  .bind .refMb fun _ => .bind .updMb fun _ => .bind .readFlag fun _ =>
    .bind (.ite
      (.bind .look fun _ => .bind .emptyMbInfo fun _ => .pure)
      (.bind (.mbTypeAndCbp .mbType4) fun _ => .bind .mbQDelta4 fun _ => .mbVectors4)) fun _ =>
    .bind .checkMbWindow fun _ => .pure

theorem mbType5 {bd : Band} {ref? : Option Mb} : KeepsScalable (mbType5 bd ref?) := by
  unfold Machine.mbType5
  cases (if bd.inheritMv then ref? else none) with
  | some ref => exact .pure
  | none => exact .bind .look fun _ => .ite .pure (.bind .readBits fun _ => .pure)

theorem mbQDelta5 {p b t m : Nat} {bd : Band} {ref? : Option Mb} : KeepsScalable (mbQDelta5 p b t m bd ref?) :=
  .ite (.ite (.ofRef fun _ => .updMb) (.bind .getMb fun _ => .bind .look fun _ => .ite .readQDelta .done)) .done

theorem mbVector5 {p b t m : Nat} {bd : Band} {ref? : Option Mb} {pred : Int × Int} :
    KeepsScalable (mbVector5 p b t m bd ref? pred) :=
  .bind .getMb fun _ => .ite (.bind .updMb fun _ => .pure) <| by
    cases (if bd.inheritMv then ref? else none) with
    | some ref => exact .bind .inheritVector fun _ => .pure
    | none => exact .bind .readDeltas fun _ => .bind .updMb fun _ => .pure

theorem mbInfo5 {p b t : Nat} {bd : Band} {tl : Tile} {m x y : Nat} {pred : Int × Int} :
    KeepsScalable (mbInfo5 p b t bd tl m x y pred) :=
  .bind .refMb fun _ => .bind .updMb fun _ => .bind .readFlag fun _ =>
    .bind (.ite
      (.bind .look fun _ => .bind .emptyMbInfo fun _ => .pure)
      (.bind (.mbTypeAndCbp .mbType5) fun _ => .bind .mbQDelta5 fun _ => .mbVector5)) fun _ =>
    .bind .checkMbWindow fun _ => .pure

theorem mbInfos {one : Nat → Nat → Nat → Int × Int → M (Int × Int)} (ho : ∀ m x y pred, KeepsScalable (one m x y pred))
    {l : List (Nat × Nat × Nat)} {pred : Int × Int} : KeepsScalable (mbInfos one l pred) := by
  induction l generalizing pred with
  | nil => exact .done
  | cons e l ih => exact .bind (ho _ _ _ _) fun _ => ih

theorem decodeMbInfo {p b t : Nat} : KeepsScalable (decodeMbInfo p b t) :=
  .bind .getBand fun _ => .bind .getTile fun _ => .bind .look fun codec => .bind .raiseIf fun _ =>
    .bind (by
      cases codec with
      | indeo4 => exact .mbInfos fun _ _ _ _ => .mbInfo4
      | indeo5 => exact .bind .raiseIf fun _ => .mbInfos fun _ _ _ _ => .mbInfo5) fun _ => .alignBits

/-! ### Bands -/

theorem codedTile {p b t pos : Nat} : KeepsScalable (codedTile p b t pos) :=
  .bind .readTileSize fun _ => .bind .update fun _ => .bind .raiseIf fun _ =>
    .bind (.sub .decodeMbInfo) fun _ => .bind (.sub .decodeTileBlocks) fun _ => .bind .look fun _ =>
    .bind .raiseIf fun _ => .pure

theorem bandTile {p b t pos : Nat} : KeepsScalable (bandTile p b t pos) :=
  .bind .getBand fun _ => .bind .getTile fun _ => .bind .raiseIf fun _ => .bind .readFlag fun _ =>
    .bind .update fun _ => .ite (.bind (.sub .emptyTile) fun _ => .pure) .codedTile

theorem bandTiles {p b : Nat} {l : List Nat} {pos : Nat} : KeepsScalable (bandTiles p b l pos) := by
  induction l generalizing pos with
  | nil => exact .done
  | cons _ l ih => exact .bind .bandTile fun _ => ih

theorem emptyBand {p b : Nat} : KeepsScalable (emptyBand p b) := .bind .look fun policy => by
    cases policy with
    | keep => exact .alignBits
    | zero => exact .bind .update fun _ => .alignBits
    | error => exact .raise

theorem withCorrections {bd : Band} {body : M Unit} (hb : KeepsScalable body) :
    KeepsScalable (withCorrections bd body) := .bind .update fun _ => leads_finally chains hb fun _ => rfl

theorem decodeBand {p b : Nat} : KeepsScalable (decodeBand p b) :=
  .bind .look fun _ => .bind .raiseIf fun _ => .bind .update fun _ =>
    .bind (.sub .bandHeader) fun _ => .bind .getBand fun _ => .ite .emptyBand <|
    .bind .look fun _ => .bind (.withCorrections .bandTiles) fun _ => .alignBits

theorem frameBands {p : Nat} : KeepsScalable (frameBands p) := .bind .look fun _ => .forEach fun _ => .sub .decodeBand

end KeepsScalable

end Sys2Proof.Machine
end

section
/-! SUPPORT. The steps of DECFRAME in FULL mode (45_frame_engine.md R371): the picture header, null frames, coded frames and
the output commands. -/

namespace Sys2Proof.Machine

open Sys2Proof.Claims

variable {s t v x : State} {e : ErrKind}

/-! ### The command -/

theorem exec_decframe_ok (hmode : s.opr.mode = .full) (h : frameSteps (s.bind s.opr.chunk s.opr.len) = .ok () t) :
    exec .decframe s = .next t.releaseScratch.complete := by
  rcases exec_decframe_full hmode with ⟨t', hrun, hexec⟩ | ⟨e, t', hrun, -⟩
  · cases h.symm.trans hrun
    exact hexec
  · cases h.symm.trans hrun

theorem exec_decframe_aborts (hmode : s.opr.mode = .full)
    (h : frameSteps (s.bind s.opr.chunk s.opr.len) = .error e t) :
    exec .decframe s = .next ((frameAbort s t.releaseScratch).raised e) := by
  rcases exec_decframe_full hmode with ⟨t', hrun, -⟩ | ⟨e', t', hrun, hexec⟩
  · cases h.symm.trans hrun
  · cases h.symm.trans hrun
    exact hexec

/-- The engine in which a frame's picture header is read. -/
def State.framed (s : State) : State := { s.bind s.opr.chunk s.opr.len with frameAborted := false, fstep := .picHdr }

theorem frameSteps_header (h : pictureHeader s.framed = .ok () t) :
    frameSteps (s.bind s.opr.chunk s.opr.len) = frameBody t := by
  have hcheck : needStream s.framed = none := needStream_of_bound rfl
  exact (M.bind_ok (update_apply _ _)).trans
    ((M.bind_ok (update_apply _ _)).trans (M.bind_ok ((sub_ok hcheck).trans h)))

/-! ### After the picture header -/

theorem frameBody_nullLast (hgop : s.hdr.gopInvalid = false) (hcodec : s.params.codec = .indeo4)
    (htype : s.frameType = 6) : frameBody s = .ok () { s with fstep := .idle } := by
  rw [frameBody, M.bind_ok (look_apply _ _), hgop, M.bind_ok (raiseIf_false _ _), M.bind_ok (look_apply _ _),
    decide_eq_true hcodec, decide_eq_true htype]
  rfl

/-- The checks that let a frame begin. -/
structure FrameStarts (s : State) : Prop where
  gop : s.hdr.gopInvalid = false
  last : ¬(s.params.codec = .indeo4 ∧ s.frameType = 6)
  unlocked : s.hdr.gopFlags.getLsbD 5 = false
  alloc : s.alloc = .allocated

theorem frameBody_starts (h : FrameStarts s) :
    frameBody s = (if s.nonNull then codedFrame else nullFrame) { s.switchBuf with fstep := .switch } := by
  obtain ⟨hgop, hlast, hlocked, halloc⟩ := h
  have hlast' : (decide (s.params.codec = .indeo4) && decide (s.frameType = 6)) = false := by
    rw [← Bool.decide_and]
    exact decide_eq_false hlast
  rw [frameBody, M.bind_ok (look_apply _ _), hgop, M.bind_ok (raiseIf_false _ _), M.bind_ok (look_apply _ _), hlast']
  simp only [Bool.false_eq_true, if_false]
  rw [M.bind_ok (look_apply _ _), hlocked, M.bind_ok (raiseIf_false _ _), M.bind_ok (look_apply _ _), halloc]
  exact (M.bind_ok (raiseIf_false _ _)).trans
    ((M.bind_ok (update_apply _ _)).trans ((M.bind_ok (update_apply _ _)).trans (M.bind_ok (look_apply _ _))))

theorem needBandBuf_ok {p : Fin 3} (h : ∃ bd k, s.band? p 0 = some bd ∧ bd.buf = some k) :
    needBandBuf p s = .ok () s := by
  obtain ⟨bd, k, hbd, hbuf⟩ := h
  rw [needBandBuf, M.bind_ok (getBand_ok hbd), hbuf]
  rfl

theorem nullFrame_ok (hscalable : s.hdr.isScalable = false)
    (hbufs : ∀ p : Fin 3, ∃ bd k, s.band? p 0 = some bd ∧ bd.buf = some k) (hvalid : s.bufInvalid[s.rot.dstBuf] = false) :
    nullFrame s = .ok () { s with fstep := .idle } := by
  have hall : forEach needBandBuf [0, 1, 2] s = .ok () s :=
    (M.bind_ok (needBandBuf_ok (hbufs 0))).trans
      ((M.bind_ok (needBandBuf_ok (hbufs 1))).trans (M.bind_ok (needBandBuf_ok (hbufs 2))))
  have hdst : checkDstValid s = .ok () s := by
    rw [checkDstValid, M.bind_ok (look_apply _ _), hvalid]
    rfl
  rw [nullFrame, M.bind_ok (look_apply _ _), hscalable, M.bind_ok (raiseIf_false _ _), M.bind_ok hall, M.bind_ok hdst]
  rfl

/-! ### The output commands -/

theorem keepsStep_outputPlane (p : Nat) : KeepsStep fun s => s.outputPlane p := keepsStep_iff.mpr fun s f e => by
  unfold State.outputPlane
  rw [show (s.atStep f e).plane? p = s.plane? p from rfl, show (s.atStep f e).band? p 0 = s.band? p 0 from rfl]
  split
  · split <;> rfl
  · rfl

theorem keepsStep_recompose (quad : State → Nat → Nat → (Nat → Nat → Nat → Int) → Nat → Nat → Int × Int × Int × Int)
    (hquad : IgnoresStep quad) : KeepsStep fun s => s.recompose (quad s) := keepsStep_iff.mpr fun s f e => by
  unfold State.recompose
  rw [hquad.atStep, show (s.atStep f e).lumaBufs = s.lumaBufs from rfl]
  split <;> rfl

/-- An output command that completes does the same at every step of a frame. -/
theorem sub_of_completed {i : Instr} {ok : State → Bool} {g : State → State}
    (hexec : exec i s = command i (fun s => orBadState (ok s)) (update g) s) (hv : exec i s = .next v)
    (herr : v.err = .none) (hok : IgnoresStep ok) (hg : KeepsStep g) (f : FStep) (e : ErrKind) :
    sub (fun s => orBadState (ok s)) (update g) (s.atStep f e) = .ok () (v.atStep f e) := by
  have hrun := (StepBlind.update hg).completed (Oblivious.orBadState_ne_none _) (hexec.symm.trans hv) herr f e
  rw [sub_ok ((congrArg orBadState (hok.atStep s f e)).trans hrun.1)]
  exact hrun.2

/-- The first output command of a frame (R371). -/
def outputFirst (s : State) : Instr :=
  if s.hdr.isScalable then if s.params.codec = .indeo4 then .recomphaar else .recomp53 else .outplane 0 0

theorem frameOutput_first (hv : exec (outputFirst s) s = .next v) (herr : v.err = .none) (e : ErrKind) :
    ∃ f, (if s.hdr.isScalable then
      goTo .recompose >>= fun _ =>
        match s.params.codec with
        | .indeo4 => sub checkRecomp (update State.recompHaar)
        | .indeo5 => sub checkRecomp (update State.recomp53)
      else goTo .output >>= fun _ => sub (checkBand 0 0) (update fun s => s.outputPlane 0)) (s.atStep .bands e) =
      .ok () (v.atStep f e) := by
  unfold outputFirst at hv
  cases hscalable : s.hdr.isScalable with
  | false =>
    rw [hscalable] at hv
    exact ⟨.output, (M.bind_ok (update_apply _ _)).trans
      (sub_of_completed (ok := fun s => s.hasBand 0 0) rfl hv herr rfl (keepsStep_outputPlane 0) .output e)⟩
  | true =>
    rw [hscalable] at hv
    cases hcodec : s.params.codec with
    | indeo4 =>
      rw [hcodec] at hv
      exact ⟨.recompose, (M.bind_ok (update_apply _ _)).trans
        (sub_of_completed (ok := fun s => s.lumaBufs.isSome) rfl hv herr rfl
          (keepsStep_recompose (fun _ => haarFilter) rfl) .recompose e)⟩
    | indeo5 =>
      rw [hcodec] at hv
      exact ⟨.recompose, (M.bind_ok (update_apply _ _)).trans
        (sub_of_completed (ok := fun s => s.lumaBufs.isSome) rfl hv herr rfl
          (keepsStep_recompose (fun s => filter53 s.params.recomp53) rfl) .recompose e)⟩

/-- A frame's output is that of its output commands one after the other. -/
theorem frameOutput_of_completes (hv : completes [outputFirst s, .outplane 2 0, .outplane 1 0] s v) (e : ErrKind) :
    v.err = .none ∧ frameOutput (s.atStep .bands e) = .ok () { v.atStep .idle e with outValid := true } := by
  obtain ⟨x, hx, herrx, y, hy, herry, z, hz, herrz, rfl⟩ := hv
  obtain ⟨f, hfirst⟩ := frameOutput_first hx herrx e
  have hsecond : sub (checkBand 2 0) (update fun s => s.outputPlane 2) (x.atStep .output e) = .ok () (y.atStep .output e) :=
    sub_of_completed (ok := fun s => s.hasBand 2 0) rfl hy herry rfl (keepsStep_outputPlane 2) .output e
  have hthird : sub (checkBand 1 0) (update fun s => s.outputPlane 1) (y.atStep .output e) = .ok () (v.atStep .output e) :=
    sub_of_completed (ok := fun s => s.hasBand 1 0) rfl hz herrz rfl (keepsStep_outputPlane 1) .output e
  refine ⟨herrz, ?_⟩
  rw [frameOutput, M.bind_ok (look_apply _ _)]
  refine (M.bind_ok hfirst).trans ((M.bind_ok (update_apply _ _)).trans ?_)
  exact (M.bind_ok hsecond).trans ((M.bind_ok hthird).trans (update_apply _ _))

end Sys2Proof.Machine
end

section
/-! SUPPORT. The bands of a coded frame, and DECFRAME by the frames it decodes (45_frame_engine.md R371; 60_exceptions.md
R410). -/

namespace Sys2Proof.Machine

open Sys2Proof.Claims

variable {s h d v : State} {e k : ErrKind}

theorem State.atStep_self {f : FStep} (hf : s.fstep = f) : s.atStep f s.err = s := by
  subst hf
  rfl

/-- The engine in which the bands of a coded frame are decoded: rotated, and with the destination invalid. -/
def State.begun (h : State) (e : ErrKind) : State :=
  { h.switchBuf with bufInvalid := h.bufInvalid.set h.switchBuf.rot.dstBuf true, fstep := .bands, err := e }

/-- The engine in which the output of a coded frame is made: the destination is valid. -/
def State.decoded (d h : State) : State := { d with bufInvalid := h.bufInvalid.set h.switchBuf.rot.dstBuf false }

/-- What the bands of a frame leave alone. -/
structure BandsKept (s d : State) : Prop where
  rot : d.rot = s.rot
  bufInvalid : d.bufInvalid = s.bufInvalid
  fstep : d.fstep = s.fstep
  params : d.params = s.params
  scalable : d.hdr.isScalable = s.hdr.isScalable

theorem limited_frameBands : Limited { cursor := true, arena := true } (forEach frameBands [0, 1, 2]) :=
  .forEach fun _ => .frameBands rfl rfl

theorem BandsKept.of_writes (hw : Writes { cursor := true, arena := true } s d)
    (hscalable : d.hdr.isScalable = s.hdr.isScalable) : BandsKept s d :=
  let ⟨hfstep, _, _, hbuf⟩ := hw.sequencer rfl
  ⟨hw.rot rfl, hbuf, hfstep, hw.params, hscalable⟩

theorem bandsKept_of_ok (hbands : forEach frameBands [0, 1, 2] s = .ok () d) : BandsKept s d :=
  .of_writes ((limited_frameBands s).1 _ _ hbands)
    (((KeepsScalable.forEach fun _ => .frameBands) s).1 _ _ hbands)

theorem bandsKept_of_error (hbands : forEach frameBands [0, 1, 2] s = .error k d) : BandsKept s d :=
  .of_writes ((limited_frameBands s).2 _ _ hbands)
    (((KeepsScalable.forEach fun _ => .frameBands) s).2 _ _ hbands)

/-- What a coded frame does after its header. -/
def codedRest : M Unit :=
  forEach frameBands [0, 1, 2] >>= fun _ => markDst false >>= fun _ => checkDstValid >>= fun _ => frameOutput

theorem codedFrame_begun (h : State) (f : FStep) (e : ErrKind) :
    codedFrame { (h.atStep f e).switchBuf with fstep := .switch } = codedRest (h.begun e) :=
  (M.bind_ok (update_apply _ _)).trans (M.bind_ok (update_apply _ _))

theorem markDst_false (hkept : BandsKept (h.begun e) d) : markDst false d = .ok () (d.decoded h) := by
  have hset : d.bufInvalid.set d.rot.dstBuf false = h.bufInvalid.set h.switchBuf.rot.dstBuf false := by
    rw [hkept.bufInvalid]
    exact (congrArg (fun r : Rotation => (h.begun e).bufInvalid.set r.dstBuf false) hkept.rot).trans (Vector.set_set _ _)
  rw [markDst, update_apply, hset]
  rfl

theorem checkDstValid_decoded (hkept : BandsKept (h.begun e) d) : checkDstValid (d.decoded h) = .ok () (d.decoded h) := by
  have hvalid : (d.decoded h).bufInvalid[(d.decoded h).rot.dstBuf] = false :=
    (congrArg (fun r : Rotation => (d.decoded h).bufInvalid[r.dstBuf]) hkept.rot).trans (Vector.getElem_set_self _)
  rw [checkDstValid, M.bind_ok (look_apply _ _), hvalid]
  rfl

theorem codedRest_ok (hbands : forEach frameBands [0, 1, 2] (h.begun e) = .ok () d)
    (hv : completes [outputFirst (d.decoded h), .outplane 2 0, .outplane 1 0] (d.decoded h) v) :
    v.err = .none ∧ codedRest (h.begun e) = .ok () { v.atStep .idle d.err with outValid := true } := by
  have hkept := bandsKept_of_ok hbands
  obtain ⟨herr, hout⟩ := frameOutput_of_completes hv d.err
  have hself : (d.decoded h).atStep .bands d.err = d.decoded h := State.atStep_self (s := d.decoded h) hkept.fstep
  rw [hself] at hout
  refine ⟨herr, ?_⟩
  rw [codedRest, M.bind_ok hbands, M.bind_ok (markDst_false hkept), M.bind_ok (checkDstValid_decoded hkept), hout]

/-! ### The picture header of a frame -/

/-- A picture header that completes as a command completes in the frame. -/
theorem pictureHeader_framed (hh : completes [.pichdr] { s.bind s.opr.chunk s.opr.len with frameAborted := false } h) :
    pictureHeader s.framed = .ok () (h.atStep .picHdr s.err) := by
  obtain ⟨t, hexec, herr, rfl⟩ := hh
  exact (StepBlind.pictureHeader.completed (check := needStream) (Oblivious.orBadState_ne_none _) hexec herr .picHdr
    s.err).2

theorem params_of_framed {t : State} (ht : pictureHeader s.framed = .ok () t) : t.params = s.params :=
  ((Limited.pictureHeader (w := { cursor := true, arena := true }) rfl rfl _).1 _ _ ht).params

/-- A coded frame, up to its bands. -/
theorem frameSteps_coded {f : FStep} (hheader : pictureHeader s.framed = .ok () (h.atStep f e)) (hstarts : FrameStarts h)
    (hcoded : h.nonNull = true) : frameSteps (s.bind s.opr.chunk s.opr.len) = codedRest (h.begun e) := by
  have hstarts' : FrameStarts (h.atStep f e) := ⟨hstarts.gop, hstarts.last, hstarts.unlocked, hstarts.alloc⟩
  rw [frameSteps_header hheader, frameBody_starts hstarts', show (h.atStep f e).nonNull = true from hcoded, if_pos rfl,
    codedFrame_begun]

end Sys2Proof.Machine

namespace Sys2Proof.Proofs.FrameFamily

open Sys2Proof.Machine Sys2Proof.Claims

variable {s h d v : State}

section full

variable (hmode : s.opr.mode = .full)
include hmode

/-- DECFRAME of an INDEO5 NULL frame. -/
theorem decframe_null5 (hcodec : s.params.codec = .indeo5) (hs : streamHas s.framed 16)
    (hcode : field s.framed 0 5 = 0x1F) (htype : field s.framed 5 3 = 4) (hgop : s.hdr.gopInvalid = false)
    (hlocked : s.hdr.gopFlags.getLsbD 5 = false) (halloc : s.alloc = .allocated) (hscalable : s.hdr.isScalable = false)
    (hbufs : ∀ p : Fin 3, ∃ bd k, s.band? p 0 = some bd ∧ bd.buf = some k)
    (hvalid : s.bufInvalid[(advance s.params s.frameType 4 s.rot).dstBuf] = false) :
    exec .decframe s = .next { ((s.framed.typed 4).reading s.framed.named5 16).switchBuf with
      fstep := .idle, err := .none, scratch := Scratch.free s.draws, draws := s.draws + 1 } := by
  have haligned : aligned (s.framed.br.index + 16) = 16 :=
    show aligned (0 + 16) = 16 by decide
  have hin : within s.framed (aligned (s.framed.br.index + 16)) := by
    rw [haligned]
    have havail := State.avail_iff.mp (State.avail_of_streamHas (by decide) hs)
    exact (Nat.le_add_left _ _).trans havail
  have hheader := pictureHeader_null5 (s := s.framed) hcodec rfl hs hcode htype hin
  rw [haligned, show 16 - s.framed.br.index = 16 from rfl] at hheader
  have hstarts : FrameStarts ((s.framed.typed 4).reading s.framed.named5 16) :=
    ⟨hgop, fun h => Codec.noConfusion (hcodec.symm.trans h.1), hlocked, halloc⟩
  have hnull : ((s.framed.typed 4).reading s.framed.named5 16).nonNull = false := by
    rw [State.nonNull, show ((s.framed.typed 4).reading s.framed.named5 16).params.codec = .indeo5 from hcodec]
    rfl
  refine exec_decframe_ok hmode (t := { ((s.framed.typed 4).reading s.framed.named5 16).switchBuf with fstep := .idle }) ?_
  rw [frameSteps_header hheader]
  refine (frameBody_starts hstarts).trans ?_
  rw [hnull]
  exact nullFrame_ok hscalable hbufs hvalid

/-- DECFRAME of an INDEO4 NULL_LAST frame ends after its header. -/
theorem decframe_nullLast (hcodec : s.params.codec = .indeo4) (hbegins : Begins4 s.framed 6)
    (hsize : field s.framed 23 1 = 0) (hgop : s.hdr.gopInvalid = false) :
    exec .decframe s = .next { (s.framed.typed 6).reading
        { s.hdr with hasTransp := decide (field s.framed 21 1 = 1), dataSize := 0 } 24 with
      fstep := .idle, err := .none, scratch := Scratch.free s.draws, draws := s.draws + 1 } := by
  have hheader := pictureHeader_null4 (s := s.framed) hcodec hbegins (.inr rfl) fun h =>
    readOptional_reading (s := s.framed.typed 6) hbegins.bound hbegins.has (by decide) hsize
  refine exec_decframe_ok hmode (t := { (s.framed.typed 6).reading _ 24 with fstep := .idle }) ?_
  rw [frameSteps_header hheader]
  exact frameBody_nullLast hgop hcodec rfl

section coded

variable (hheader : pictureHeader s.framed = .ok () (h.atStep .picHdr s.err)) (hstarts : FrameStarts h)
  (hcoded : h.nonNull = true)
include hheader hstarts hcoded

/-- DECFRAME of a coded frame whose bands and output commands complete. -/
theorem decframe_coded (hbands : forEach frameBands [0, 1, 2] (h.begun s.err) = .ok () d)
    (hv : completes [outputFirst (d.decoded h), .outplane 2 0, .outplane 1 0] (d.decoded h) v) :
    exec .decframe s = .next { v with
      outValid := true, fstep := .idle, scratch := Scratch.free v.draws, draws := v.draws + 1 } := by
  obtain ⟨herr, hrest⟩ := codedRest_ok hbands hv
  rw [exec_decframe_ok hmode ((frameSteps_coded hheader hstarts hcoded).trans hrest)]
  refine congrArg Host.Outcome.next ?_
  have hcomplete : v.complete = v := by rw [State.complete, ← herr]
  conv_rhs => rw [← hcomplete]
  rfl

/-- DECFRAME of a coded frame one of whose bands raises. -/
theorem decframe_aborted {e : ErrKind} (hbands : forEach frameBands [0, 1, 2] (h.begun s.err) = .error e d) :
    exec .decframe s = .next { d with
      frameAborted := true, fstep := .idle, outValid := s.outValid, mem := { d.mem with out := s.mem.out }, err := e
      bufInvalid := h.bufInvalid.set h.switchBuf.rot.dstBuf true
      res := Config.freeRes (d.draws + 1), scratch := Scratch.free d.draws, draws := d.draws + 1 + 1 } := by
  have hbuf : d.bufInvalid = h.bufInvalid.set h.switchBuf.rot.dstBuf true := (bandsKept_of_error hbands).bufInvalid
  rw [← hbuf, exec_decframe_aborts hmode ((frameSteps_coded hheader hstarts hcoded).trans (M.bind_error hbands))]
  simp only [frameAbort, State.raised, State.releaseScratch]

end coded

end full

/-- Settles O48: the steps of a frame run as the commands they are. -/
theorem frameBindAndNull : Obligations.FrameBindAndNull := by
  intro s o s0
  refine ⟨fun hmode => ?_, ?_, ?_, ?_⟩
  · have hbind : decodeFrame s.opr s = .ok () s0 := by rw [decodeFrame, hmode]; rfl
    exact command_ok rfl rfl hbind
  · intro hmode hcodec hs hcode htype hgop hlocked halloc hscalable hbufs rot hvalid
    exact ⟨_, decframe_null5 hmode hcodec hs hcode htype hgop hlocked halloc hscalable hbufs hvalid, rfl⟩
  · intro hmode hcodec hs hcode htype hzero hsize hgop
    exact ⟨_, decframe_nullLast hmode hcodec ⟨rfl, hs, hcode, htype, hzero⟩ hsize hgop, rfl⟩
  · intro h hmode hh hgop hlocked halloc h4 h5 rot begun
    have hheader := pictureHeader_framed hh
    have hparams : h.params = s.params := params_of_framed (t := h.atStep .picHdr s.err) hheader
    have hrot : rot = h.switchBuf.rot := congrArg (fun p => advance p h.prevFrameType h.frameType h.rot) hparams.symm
    have hbegun : begun = h.begun s.err := congrArg (fun r : Rotation =>
      { h with rot := r, bufInvalid := h.bufInvalid.set r.dstBuf true, fstep := .bands, err := s.err }) hrot
    have hdst (b : Bool) : h.bufInvalid.set rot.dstBuf b = h.bufInvalid.set h.switchBuf.rot.dstBuf b :=
      congrArg (fun r : Rotation => h.bufInvalid.set r.dstBuf b) hrot
    have hcoded : h.nonNull = true := by
      unfold State.nonNull
      rw [hparams]
      split
      · exact decide_eq_true (h4 ‹_›)
      · exact decide_eq_true (h5 ‹_›)
    have hstarts : FrameStarts h := ⟨hgop, fun hlast => by
      have htype := h4 (hparams ▸ hlast.1)
      rw [hlast.2] at htype
      exact absurd htype (by decide), hlocked, halloc⟩
    rw [hbegun, hdst, hdst]
    refine ⟨fun d v first hbands hfirst hv => ?_, fun e d hbands => ?_⟩
    · have hkept := bandsKept_of_ok hbands
      have hfirst' : first = outputFirst (d.decoded h) := by
        have hscalable : (d.decoded h).hdr.isScalable = h.hdr.isScalable := hkept.scalable
        have hcodec : (d.decoded h).params = s.params := hkept.params.trans hparams
        rw [hfirst, outputFirst, hscalable, hcodec]
      subst hfirst'
      exact ⟨_, decframe_coded hmode hheader hstarts hcoded hbands hv, rfl⟩
    · exact ⟨_, decframe_aborted hmode hheader hstarts hcoded hbands, rfl⟩

end Sys2Proof.Proofs.FrameFamily
end
